-- ==== Sys2Proof/Word.lean ====
section
/-! DEFINITION. Word.lean: the word of the block. -/

namespace Sys2Proof

/-- A word of filter storage, a register, an operand-queue entry, a command: 32 bits (R5, R57). -/
abbrev Word := BitVec 32

/-- A byte: an opcode field, a register offset, an error code (R38, R51, R82). -/
abbrev Byte := BitVec 8

end Sys2Proof
end

