-- ==== Sys2Proof/Config.lean ====
section
/-! DEFINITION. Config.lean: the parameters of a block (R6) and the constants the platform leaves open. -/

namespace Sys2Proof

/-- The parameters a block is built with (R6). MAX_WORDS is a power of two, so its logarithm is what is held. -/
structure Config where
  /-- NSLOT, the number of filter slots -/
  nslot : Nat
  /-- LOG2_MAX_WORDS -/
  log2MaxWords : Nat
  /-- ARGQ_DEPTH, the capacity of the operand queue -/
  argqDepth : Nat
deriving DecidableEq, Repr

/-- MAX_WORDS, the largest filter size in words (R6). -/
def Config.maxWords (c : Config) : Nat := 2 ^ c.log2MaxWords

/-- The legal values of R6: NSLOT 4 to 16, MAX_WORDS 32 to 32768, ARGQ_DEPTH 8 to 255. -/
def Config.legal (c : Config) : Bool :=
  decide (4 ≤ c.nslot ∧ c.nslot ≤ 16) && decide (5 ≤ c.log2MaxWords ∧ c.log2MaxWords ≤ 15) &&
    decide (8 ≤ c.argqDepth ∧ c.argqDepth ≤ 255)

/-- The reference values of R6: 8 slots, 1024 words, 16 operand-queue entries. -/
def Config.reference : Config := { nslot := 8, log2MaxWords := 10, argqDepth := 16 }

/-- FREE CONSTANT (log 2): which 256-byte window of the platform's address space the block's registers occupy. -/
opaque Config.bfeWindow : Nat

/-- BFE_BASE (R6, R51): the bus address of register offset 0, 256-byte aligned and otherwise open. -/
def Config.bfeBase : Nat := 256 * Config.bfeWindow

end Sys2Proof
end

