-- ==== Sys2Proof/Machine/State.lean ====
section
/-! DEFINITION. Machine/State.lean: the state of the block, the moves of its agents, the reasons a step can stop, and reset. -/

namespace Sys2Proof.Machine

/-- The filter a valid slot holds (R20): its words, word 0 first. -/
structure BloomFilter where
  /-- `slot[s].words` -/
  words : List Word
deriving DecidableEq, Repr

/-- `slot[s].size` (R20): the number of words. The source's `mask` is this less 1 and is not stored. -/
def BloomFilter.size (f : BloomFilter) : Nat := f.words.length

/-- The slot storage (R20, R50), the block's only memory: one entry per slot, `none` for a slot whose valid bit is 0, which
holds no filter and no value (R23). -/
abbrev Memory := List (Option BloomFilter)

/-- One access offered at the bus port, as the signals of R69 give it. -/
structure BusAccess where
  /-- `bus_write`: a write, otherwise a read -/
  write : Bool
  /-- `bus_addr`: the byte offset in the register window -/
  addr : Byte
  /-- `bus_wdata` -/
  wdata : Word
  /-- `bus_wstrb`: the byte strobes of a write -/
  wstrb : BitVec 4
  /-- `bus_size`: log2 of the access size in bytes -/
  size : BitVec 2
deriving DecidableEq, Repr

/-- What the block answers to an access (R53, R59, R60, R69). -/
inductive BusResponse where
  /-- a performed read and its data (`bus_rdata`) -/
  | data (v : Word)
  /-- a performed write -/
  | written
  /-- a refused access (`bus_err`); a refused read returns no data -/
  | busError
deriving DecidableEq, Repr

/-- One move of one agent (R13). -/
inductive Turn where
  /-- the host performs one bus access -/
  | host (a : BusAccess)
  /-- the engine completes the command in flight, if there is one (R29) -/
  | engine
  /-- `rst_n` goes to 0 and back to 1 (R240) -/
  | reset
deriving DecidableEq, Repr

/-- The errors of R201. -/
inductive ErrCode where
  | illegalOpcode | reservedField | slotRange | slotInvalid | invalidSize | sizeTooLarge | sizeMismatch | reduceExpand
  | wordRange | argUnderflow | argOverflow | busyWrite
deriving DecidableEq, Repr

/-- What `raise Error(CODE, info)` carries (R200). -/
structure CmdError where
  /-- CODE -/
  code : ErrCode
  /-- the ERRINFO word -/
  info : Word
deriving DecidableEq, Repr

/-- The state of the block. STATUS.BUSY, STATUS.ARGQ_COUNT and irq are views of these fields (Flags.lean). -/
structure State where
  /-- the parameters of this block (R6, R42); no step writes them -/
  cfg : Config
  /-- the filter slots (R20) -/
  slots : Memory
  /-- ARGQ, the operand queue, oldest entry first (R24) -/
  argq : List Word
  /-- PENDING, the accepted command; BUSY is 1 exactly while it holds one (R29) -/
  pending : Option Word
  /-- STATUS.DONE (R32) -/
  done : Bool
  /-- STATUS.ERR (R32) -/
  err : Bool
  /-- CTRL.IE_DONE (R31) -/
  ieDone : Bool
  /-- CTRL.IE_ERR (R31) -/
  ieErr : Bool
  /-- RESULT (R26) -/
  result : Word
  /-- ERRCODE (R38) -/
  errCode : Word
  /-- ERRINFO (R39) -/
  errInfo : Word
  /-- the model's own: the moves still to come, oldest first (log 3) -/
  turns : List Turn
  /-- the model's own: the bus's answers so far, oldest first (log 9) -/
  responses : List BusResponse
deriving DecidableEq, Repr

/-- Faults: none. The spec gives every event an effect: a failing command is recorded and completes (R200, R203), a refused
access is answered on the bus (R53). Safe: nothing ends in a fault (log 13). -/
inductive Fault where
deriving DecidableEq, Repr

/-- Refusals: only the one the host's interface asks for. -/
inductive Refusal where
  /-- raised by an arm of `exec` whose instruction has no meaning yet; no arm is left so (safe) -/
  | notModelled (mnemonic : String)
deriving DecidableEq, Repr

/-- The reset state of R43 of a block with these parameters, with no move to come and no answer given. -/
def State.resetWith (c : Config) : State where
  cfg := c
  slots := List.replicate c.nslot none
  argq := []
  pending := none
  done := false
  err := false
  ieDone := false
  ieErr := false
  result := 0#32
  errCode := 0#32
  errInfo := 0#32
  turns := []
  responses := []

/-- The machine right after reset (R43), at the reference parameters of R6 (log 1). -/
def State.reset : State := State.resetWith Config.reference

end Sys2Proof.Machine
end

