-- ==== Sys2Proof/Machine/Ops.lean ====
section
/-! DEFINITION. Machine/Ops.lean: the operations every command rule is written over: slot storage, the bits of a filter, the
operand queue, RESULT, recording an error, completion and reset. -/

namespace Sys2Proof.Machine

/-- `isPow2(n)` of R9: `n != 0 and (n & (n - 1)) == 0`. -/
def isPow2 (n : Nat) : Bool := n != 0 && (n &&& (n - 1)) == 0

/-- `zext_32({hi[15:0], lo[15:0]})`, the information word of two numbers (R100, R140, R161). -/
def pairInfo (hi lo : Nat) : Word := BitVec.ofNat 16 hi ++ BitVec.ofNat 16 lo

/-! ## Slot storage (R20, R50, R56) -/

/-- What slot `n` holds: a filter, or nothing when it is invalid (R23) or not a slot of the block. -/
def Memory.slot (m : Memory) (n : Nat) : Option BloomFilter := m[n]?.join

/-- Slot `n` now holds this (a filter, or nothing). -/
def Memory.put (m : Memory) (n : Nat) (v : Option BloomFilter) : Memory := m.set n v

/-- Word `i` of slot `n` (R56): a value only when the slot is valid and `i` is inside the filter. -/
def Memory.word (m : Memory) (n i : Nat) : Option Word := (m.slot n).bind (fun f => f.words[i]?)

/-- The slot invariant of R21 for one filter. -/
def BloomFilter.wf (c : Config) (f : BloomFilter) : Bool := isPow2 f.size && decide (f.size ≤ c.maxWords)

/-- The canonical form of slot storage: NSLOT slots (R20), each invalid or holding a filter of a legal size (R21). -/
def Memory.wf (c : Config) (m : Memory) : Bool :=
  decide (m.length = c.nslot) && m.all (fun v => match v with | none => true | some f => f.wf c)

/-- What slot `n` of the block holds. -/
def State.slotAt (s : State) (n : Nat) : Option BloomFilter := s.slots.slot n

/-- A command writes slot `n`. -/
def State.putSlot (s : State) (n : Nat) (v : Option BloomFilter) : State := { s with slots := s.slots.put n v }

/-! ## The bits of a filter (R55, R101 to R103) -/

/-- `WordIndex(h, size)` of R101: the logical shift by 5, masked. -/
def wordIndex (h : Word) (size : Nat) : Nat := ((h >>> 5) &&& (BitVec.ofNat 32 size - 1#32)).toNat

/-- `BitIndex(h)` of R101. -/
def bitIndex (h : Word) : Nat := (h &&& 31#32).toNat

/-- The word with the one bit of a hash value set, `1 << (h & 31)` (R102). -/
def bitMask (h : Word) : Word := 1#32 <<< bitIndex h

/-- Word `i` of a filter. The 0 outside the filter is never read by a command (log 10). -/
def BloomFilter.word (f : BloomFilter) (i : Nat) : Word := f.words.getD i 0#32

/-- `SetBit` of R102 on a filter. -/
def BloomFilter.setBit (f : BloomFilter) (h : Word) : BloomFilter :=
  { words := f.words.set (wordIndex h f.size) (f.word (wordIndex h f.size) ||| bitMask h) }

/-- `GetBit` of R103 on a filter. -/
def BloomFilter.getBit (f : BloomFilter) (h : Word) : Bool := (f.word (wordIndex h f.size) &&& bitMask h) != 0#32

/-- Bit number `g` of the filter's bit vector (R55): bit `g & 31` of word `g >> 5`. -/
def BloomFilter.bit (f : BloomFilter) (g : Nat) : Bool := (f.word (g / 32)).getLsbD (g % 32)

/-- A zero-filled filter of `n` words (R106). -/
def BloomFilter.zero (n : Nat) : BloomFilter := { words := List.replicate n 0#32 }

/-! ## The operand queue (R24) -/

/-- `ArgCount()`. -/
def State.argCount (s : State) : Nat := s.argq.length

/-- The entry `ArgPop()` returns: the oldest. Every command that pops has checked that there is one (log 10). -/
def State.argFront (s : State) : Word := s.argq.headD 0#32

/-- `ArgPop()` removes the oldest entry. -/
def State.argPop (s : State) : State := { s with argq := s.argq.tail }

/-- The entries that `n` times `ArgPop()` return, in that order. -/
def State.argFirst (s : State) (n : Nat) : List Word := s.argq.take n

/-- `n` times `ArgPop()`. -/
def State.argDrop (s : State) (n : Nat) : State := { s with argq := s.argq.drop n }

/-- An ARG write appends an entry (R36). -/
def State.argPush (s : State) (v : Word) : State := { s with argq := s.argq ++ [v] }

/-- ARGQ becomes empty (R25). -/
def State.argClear (s : State) : State := { s with argq := [] }

/-! ## RESULT, completion and errors -/

/-- `RESULT <- v` (R26). -/
def State.setResult (s : State) (v : Word) : State := { s with result := v }

/-- `RESULT <- zext_32(D)`, the result of a command that returns a filter (R26). -/
def State.setResultSlot (s : State) (d : Nat) : State := s.setResult (BitVec.ofNat 32 d)

/-- A boolean result: 1 for true, 0 for false (R26). -/
def boolWord (b : Bool) : Word := if b then 1#32 else 0#32

/-- Completion (R29): `STATUS.DONE <- 1; STATUS.BUSY <- 0`. -/
def State.complete (s : State) : State := { s with done := true, pending := none }

/-- CODE of R201. -/
def ErrCode.byte : ErrCode → Byte
  | .illegalOpcode => 0x01#8
  | .reservedField => 0x02#8
  | .slotRange => 0x03#8
  | .slotInvalid => 0x04#8
  | .invalidSize => 0x05#8
  | .sizeTooLarge => 0x06#8
  | .sizeMismatch => 0x07#8
  | .reduceExpand => 0x08#8
  | .wordRange => 0x09#8
  | .argUnderflow => 0x0A#8
  | .argOverflow => 0x0B#8
  | .busyWrite => 0x0C#8

/-- `zext_32({opc[7:0], code[7:0]})`, the ERRCODE word (R38, R200). -/
def errCodeWord (code : ErrCode) (opc : Byte) : Word := 0#16 ++ opc ++ code.byte

/-- `RecordError(code, opc, info)` of R200, this block's trap entry (R207): the first error is kept (R209). -/
def State.recordError (s : State) (code : ErrCode) (opc : Byte) (info : Word) : State :=
  if s.err then s else { s with err := true, errCode := errCodeWord code opc, errInfo := info }

/-- Return from an error (R208): the W1C of ERR. ERRCODE and ERRINFO keep the last recorded error. -/
def State.clearErr (s : State) : State := { s with err := false }

/-- The end of a command: its new state, or, when it raised an error, the old state with the error recorded and none of the
command's writes (R11, R200, R203); then the completion of R29. -/
def State.finish (s : State) (opc : Byte) (r : Except CmdError State) : Host.Outcome State Fault Refusal :=
  match r with
  | .ok t => .next t.complete
  | .error e => .next (s.recordError e.code opc e.info).complete

/-- The effect of reset (R241): the state of R43. What the host still has to do and what it has read stay the host's. -/
def State.resetEffect (s : State) : State :=
  { s with
    slots := List.replicate s.cfg.nslot none
    argq := []
    pending := none
    done := false
    err := false
    ieDone := false
    ieErr := false
    result := 0#32
    errCode := 0#32
    errInfo := 0#32 }

end Sys2Proof.Machine
end

