-- ==== Sys2Proof/Machine/Flags.lean ====
section
/-! DEFINITION. Machine/Flags.lean: the flags (R27), the STATUS and CTRL words (R31, R32), the write-1-to-clear of STATUS and
the interrupt level (R211). -/

namespace Sys2Proof.Machine

/-- STATUS.BUSY: 1 from acceptance to completion, that is while PENDING holds a command (R29, R32). -/
def State.busy (s : State) : Bool := s.pending.isSome

/-- The STATUS word: `zext_32({ArgCount()[7:0], 5'b0, ERR, DONE, BUSY})` (R32, R60). -/
def State.statusWord (s : State) : Word :=
  0#16 ++ BitVec.ofNat 8 s.argCount ++ 0#5 ++ BitVec.ofBool s.err ++ BitVec.ofBool s.done ++ BitVec.ofBool s.busy

/-- The CTRL word as read: `zext_32({IE_ERR, IE_DONE})` (R31, R60). -/
def State.ctrlWord (s : State) : Word := 0#30 ++ BitVec.ofBool s.ieErr ++ BitVec.ofBool s.ieDone

/-- W1C of STATUS.DONE (R32). -/
def State.clearDone (s : State) : State := { s with done := false }

/-- A STATUS write (R32): bit 1 clears DONE, bit 2 clears ERR, every other bit is ignored. -/
def State.statusWrite (s : State) (v : Word) : State :=
  let t := if v.getLsbD 1 then s.clearDone else s
  if v.getLsbD 2 then t.clearErr else t

/-- The interrupt enables of CTRL (R31): bit 0 IE_DONE, bit 1 IE_ERR. -/
def State.setEnables (s : State) (v : Word) : State := { s with ieDone := v.getLsbD 0, ieErr := v.getLsbD 1 }

/-- The interrupt output (R211): `(DONE & IE_DONE) | (ERR & IE_ERR)`. -/
def State.irq (s : State) : Bool := (s.done && s.ieDone) || (s.err && s.ieErr)

end Sys2Proof.Machine
end

