-- ==== Sys2Proof/Machine/Bus.lean ====
section
/-! DEFINITION. Machine/Bus.lean: the register window: which accesses are performed (R52, R53), what a read returns (R60) and
what a write does (R59). -/

namespace Sys2Proof.Machine

/-- The accesses the block performs (R52, R53, R69): 32 bits wide, at a 4-byte-aligned offset, all byte strobes set on a write. -/
def BusAccess.legal (a : BusAccess) : Bool :=
  a.addr.extractLsb' 0 2 == 0#2 && a.size == 2#2 && (!a.write || a.wstrb == 0xF#4)

/-- The ID constant, "BFE1" (R33). -/
def idWord : Word := 0x42464531#32

/-- The CONFIG word (R34): SPEC_VERSION 0x01, ARGQ_DEPTH, LOG2_MAX_WORDS, NSLOT. -/
def configWord (c : Config) : Word :=
  0x01#8 ++ BitVec.ofNat 8 c.argqDepth ++ BitVec.ofNat 8 c.log2MaxWords ++ BitVec.ofNat 8 c.nslot

/-- `BusRead(off)` (R60). -/
def State.busRead (s : State) (off : Byte) : Word :=
  if off = 0x00#8 then idWord
  else if off = 0x04#8 then configWord s.cfg
  else if off = 0x08#8 then s.ctrlWord
  else if off = 0x0C#8 then s.statusWord
  else if off = 0x18#8 then s.result
  else if off = 0x1C#8 then s.errCode
  else if off = 0x20#8 then s.errInfo
  else 0#32

/-- `RecordError(BUSY_WRITE, 0, off)`: a write that is dropped because BUSY = 1 (R205). -/
def State.busyError (s : State) (off : Byte) : State := s.recordError .busyWrite 0x00#8 (off.setWidth 32)

/-- A CTRL write (R31): SOFT_RESET alone (R242), else ARGQ_CLR refused while BUSY = 1, else the enables and ARGQ_CLR. -/
def State.ctrlWrite (s : State) (v : Word) : State :=
  if v.getLsbD 9 then s.resetEffect
  else if v.getLsbD 8 && s.busy then s.busyError 0x08#8
  else if v.getLsbD 8 then (s.setEnables v).argClear
  else s.setEnables v

/-- A CMD write (R59): discarded while ERR = 1 (R206), dropped with an error while BUSY = 1, else accepted (R29). -/
def State.cmdWrite (s : State) (c : Word) : State :=
  if s.err then s
  else if s.busy then s.busyError 0x10#8
  else { s with pending := some c }

/-- An ARG write (R36, R59): dropped with an error while BUSY = 1 or when ARGQ is full, else appended (log 11). -/
def State.argWrite (s : State) (v : Word) : State :=
  if s.busy then s.busyError 0x14#8
  else if s.argCount < s.cfg.argqDepth then s.argPush v
  else s.recordError .argOverflow 0x00#8 v

/-- `BusWrite(off, v)` (R59). -/
def State.busWrite (s : State) (off : Byte) (v : Word) : State :=
  if off = 0x08#8 then s.ctrlWrite v
  else if off = 0x0C#8 then s.statusWrite v
  else if off = 0x10#8 then s.cmdWrite v
  else if off = 0x14#8 then s.argWrite v
  else s

/-- The block answers an access. -/
def State.respond (s : State) (r : BusResponse) : State := { s with responses := s.responses ++ [r] }

/-- One host access (R52, R53): refused with a bus error and no other effect, or performed whole. -/
def State.hostAccess (s : State) (a : BusAccess) : State :=
  if a.legal then
    if a.write then (s.busWrite a.addr a.wdata).respond .written else s.respond (.data (s.busRead a.addr))
  else s.respond .busError

/-- The byte that byte lane `k` (0 to 3) of the bus carries of a register value: bits 8k+7 to 8k (R54). -/
def busLane (v : Word) (k : Nat) : Byte := v.extractLsb' (8 * k) 8

/-- `BusRead(off)` as the host offers it (R52). -/
def BusAccess.read (off : Byte) : BusAccess := { write := false, addr := off, wdata := 0#32, wstrb := 0#4, size := 2#2 }

/-- `BusWrite(off, v)` as the host offers it (R52). -/
def BusAccess.writeWord (off : Byte) (v : Word) : BusAccess :=
  { write := true, addr := off, wdata := v, wstrb := 0xF#4, size := 2#2 }

/-- The bus address of register offset `off` (R51). -/
def busAddress (off : Byte) : Nat := Config.bfeBase + off.toNat

/-- The offset the block decodes from a bus address inside its window: address bits 7:0 (R51). Addresses outside the window
are the platform's and never reach the block. -/
def windowOffset (addr : Nat) : Option Byte :=
  if Config.bfeBase ≤ addr ∧ addr < Config.bfeBase + 256 then some (BitVec.ofNat 8 addr) else none

/-- `MemRead(addr, 4)` (R10, R52). -/
def memRead (addr : Nat) : Option Turn := (windowOffset addr).map (fun off => .host (BusAccess.read off))

/-- `MemWrite(addr, 4, v)` (R10, R52). -/
def memWrite (addr : Nat) (v : Word) : Option Turn :=
  (windowOffset addr).map (fun off => .host (BusAccess.writeWord off v))

end Sys2Proof.Machine
end

