-- ==== Sys2Proof/Syntax.lean ====
section
/-! DEFINITION. Syntax.lean: the command set, one constructor per row of the opcode map (R86). -/

namespace Sys2Proof

/-- The thirteen commands (R2, R86). `d` is the destination slot, `a` the first source slot (self), `b` the second
(other); the last number of a command is its IMM16: a word count, an operand count or a word index (R84). -/
inductive Instr where
  /-- CONSTRUCT D, N (R106) -/
  | construct (d n : Nat)
  /-- RELEASE D (R107) -/
  | release (d : Nat)
  /-- LOADW D, i (R108) -/
  | loadw (d i : Nat)
  /-- READW A, i (R109) -/
  | readw (a i : Nat)
  /-- GETSIZE A (R110) -/
  | getsize (a : Nat)
  /-- ADD D, n (R111) -/
  | add (d n : Nat)
  /-- CONTAINS A, n (R112) -/
  | contains (a n : Nat)
  /-- UNION D, A, B (R141) -/
  | union (d a b : Nat)
  /-- INTERSECT D, A, B (R142) -/
  | intersect (d a b : Nat)
  /-- SUBSET A, B (R143) -/
  | subset (a b : Nat)
  /-- REDUCE D, A, M (R161) -/
  | reduce (d a m : Nat)
  /-- HASH A (R181) -/
  | hash (a : Nat)
  /-- DENSITY A (R183) -/
  | density (a : Nat)
deriving DecidableEq, Repr

end Sys2Proof
end

