-- ==== Sys2Proof/WellFormed.lean ====
section
/-! DEFINITION. WellFormed.lean: which instructions a command word can carry: slot numbers of 4 bits (R85) and an IMM16 of
16 bits (R84). Whether a slot number is below NSLOT is not an encoding matter: that is the error SLOT_RANGE (R85). -/

namespace Sys2Proof

/-- A slot field holds 0 to 15 (R85). -/
def slotFits (n : Nat) : Bool := decide (n < 16)

/-- IMM16 holds 0 to 65535 (R84). -/
def immFits (n : Nat) : Bool := decide (n < 65536)

/-- Every operand fits its field of the command word (R82, R83). -/
def Instr.wellFormed : Instr → Bool
  | .construct d n => slotFits d && immFits n
  | .release d => slotFits d
  | .loadw d i => slotFits d && immFits i
  | .readw a i => slotFits a && immFits i
  | .getsize a => slotFits a
  | .add d n => slotFits d && immFits n
  | .contains a n => slotFits a && immFits n
  | .union d a b => slotFits d && slotFits a && slotFits b
  | .intersect d a b => slotFits d && slotFits a && slotFits b
  | .subset a b => slotFits a && slotFits b
  | .reduce d a m => slotFits d && slotFits a && immFits m
  | .hash a => slotFits a
  | .density a => slotFits a

end Sys2Proof
end

