-- ==== Sys2Proof/Decode.lean ====
section
/-! DEFINITION. Decode.lean: the opcode map (R86), the decoder, total on every 32-bit word (R90), and the encoder (R91). -/

namespace Sys2Proof

/-- The rows of the opcode map (R86). -/
inductive Opcode where
  | construct | release | loadw | readw | getsize | add | contains | union | intersect | subset | reduce | hash | density
deriving DecidableEq, Repr

/-- All rows, in the order of R86. -/
def Opcode.all : List Opcode :=
  [.construct, .release, .loadw, .readw, .getsize, .add, .contains, .union, .intersect, .subset, .reduce, .hash, .density]

/-- The OPC column of R86. -/
def Opcode.opc : Opcode → Byte
  | .construct => 0x01#8
  | .release => 0x02#8
  | .loadw => 0x03#8
  | .readw => 0x04#8
  | .getsize => 0x05#8
  | .add => 0x10#8
  | .contains => 0x11#8
  | .union => 0x20#8
  | .intersect => 0x21#8
  | .subset => 0x22#8
  | .reduce => 0x30#8
  | .hash => 0x40#8
  | .density => 0x41#8

/-- The `match` column of R86. -/
def Opcode.pattern : Opcode → Word
  | .construct => 0x01000000#32
  | .release => 0x02000000#32
  | .loadw => 0x03000000#32
  | .readw => 0x04000000#32
  | .getsize => 0x05000000#32
  | .add => 0x10000000#32
  | .contains => 0x11000000#32
  | .union => 0x20000000#32
  | .intersect => 0x21000000#32
  | .subset => 0x22000000#32
  | .reduce => 0x30000000#32
  | .hash => 0x40000000#32
  | .density => 0x41000000#32

/-- The `mask` column of R86; its bits below OPC are the must-be-zero bits (R87). -/
def Opcode.mask : Opcode → Word
  | .construct => 0xFF0F0000#32
  | .release => 0xFF0FFFFF#32
  | .loadw => 0xFF0F0000#32
  | .readw => 0xFFF00000#32
  | .getsize => 0xFFF0FFFF#32
  | .add => 0xFF0F0000#32
  | .contains => 0xFFF00000#32
  | .union => 0xFF000FFF#32
  | .intersect => 0xFF000FFF#32
  | .subset => 0xFFF00FFF#32
  | .reduce => 0xFF000000#32
  | .hash => 0xFFF0FFFF#32
  | .density => 0xFFF0FFFF#32

/-- The "fields used" column of R86: the instruction a row makes of the fields D, A, B and IMM16. -/
def Opcode.build (o : Opcode) (d a b imm : Nat) : Instr :=
  match o with
  | .construct => .construct d imm
  | .release => .release d
  | .loadw => .loadw d imm
  | .readw => .readw a imm
  | .getsize => .getsize a
  | .add => .add d imm
  | .contains => .contains a imm
  | .union => .union d a b
  | .intersect => .intersect d a b
  | .subset => .subset a b
  | .reduce => .reduce d a imm
  | .hash => .hash a
  | .density => .density a

/-- The row whose OPC is this byte, if one is assigned (R86, R88). -/
def Opcode.ofByte (b : Byte) : Option Opcode := Opcode.all.find? (fun o => o.opc == b)

/-- The row an instruction belongs to. -/
def Instr.opcode : Instr → Opcode
  | .construct _ _ => .construct
  | .release _ => .release
  | .loadw _ _ => .loadw
  | .readw _ _ => .readw
  | .getsize _ => .getsize
  | .add _ _ => .add
  | .contains _ _ => .contains
  | .union _ _ _ => .union
  | .intersect _ _ _ => .intersect
  | .subset _ _ => .subset
  | .reduce _ _ _ => .reduce
  | .hash _ => .hash
  | .density _ => .density

/-- OPC, bits 31:24 of a command word (R82). -/
def fieldOpc (c : Word) : Byte := c.extractLsb' 24 8

/-- D, bits 23:20 (R82). -/
def fieldD (c : Word) : Nat := (c.extractLsb' 20 4).toNat

/-- A, bits 19:16 (R82). -/
def fieldA (c : Word) : Nat := (c.extractLsb' 16 4).toNat

/-- B, bits 15:12 (R82). -/
def fieldB (c : Word) : Nat := (c.extractLsb' 12 4).toNat

/-- IMM16, bits 15:0, unsigned (R82, R84). -/
def fieldImm (c : Word) : Nat := (c.extractLsb' 0 16).toNat

/-- What a command word decodes to: a command or one of two errors (R90). -/
inductive Decoded where
  /-- a command of R86 -/
  | ok (i : Instr)
  /-- OPC is not assigned (R88) -/
  | illegalOpcode
  /-- a must-be-zero bit is 1 (R87) -/
  | reservedField
deriving DecidableEq, Repr

/-- Decoding of a command word (R90): the row of OPC first, then its must-be-zero bits. -/
def decode (c : Word) : Decoded :=
  match Opcode.ofByte (fieldOpc c) with
  | none => .illegalOpcode
  | some o =>
    if c &&& o.mask = o.pattern then .ok (o.build (fieldD c) (fieldA c) (fieldB c) (fieldImm c)) else .reservedField

/-- A slot number placed in field D (R83, R91). -/
def putD (n : Nat) : Word := BitVec.ofNat 32 n <<< 20

/-- A slot number placed in field A (R83, R91). -/
def putA (n : Nat) : Word := BitVec.ofNat 32 n <<< 16

/-- A slot number placed in field B (R83, R91). -/
def putB (n : Nat) : Word := BitVec.ofNat 32 n <<< 12

/-- A number placed in IMM16 (R83, R91). -/
def putImm (n : Nat) : Word := BitVec.ofNat 32 n

/-- The command word of a well-formed instruction, as the assembler of R91 makes it. -/
def encode : Instr → Word
  | .construct d n => Opcode.construct.pattern ||| putD d ||| putImm n
  | .release d => Opcode.release.pattern ||| putD d
  | .loadw d i => Opcode.loadw.pattern ||| putD d ||| putImm i
  | .readw a i => Opcode.readw.pattern ||| putA a ||| putImm i
  | .getsize a => Opcode.getsize.pattern ||| putA a
  | .add d n => Opcode.add.pattern ||| putD d ||| putImm n
  | .contains a n => Opcode.contains.pattern ||| putA a ||| putImm n
  | .union d a b => Opcode.union.pattern ||| putD d ||| putA a ||| putB b
  | .intersect d a b => Opcode.intersect.pattern ||| putD d ||| putA a ||| putB b
  | .subset a b => Opcode.subset.pattern ||| putA a ||| putB b
  | .reduce d a m => Opcode.reduce.pattern ||| putD d ||| putA a ||| putImm m
  | .hash a => Opcode.hash.pattern ||| putA a
  | .density a => Opcode.density.pattern ||| putA a

/-- The instruction the decoder reads from the lowest `nbits` bits of `w`, every higher bit zero. A command is exactly one
32-bit word (R81), so the table numbers its bits as the word does. -/
def decodeTableWord (nbits w : Nat) : Option Instr :=
  match decode (BitVec.ofNat 32 (w % 2 ^ nbits)) with
  | .ok i => some i
  | .illegalOpcode => none
  | .reservedField => none

end Sys2Proof
end

