-- ==== Sys2Proof/Machine/Operands.lean ====
section
/-! DEFINITION. Machine/Operands.lean: the operand checks of R100 and R140, each a failed check the error it raises. -/

namespace Sys2Proof.Machine

/-- `CheckRange(s)` of R100: SLOT_RANGE when the slot number is not below NSLOT. -/
def checkRange (s : State) (n : Nat) : Except CmdError Unit :=
  if n < s.cfg.nslot then .ok () else .error ⟨.slotRange, BitVec.ofNat 32 n⟩

/-- `CheckValid(s)` of R100: SLOT_INVALID when the slot holds no filter; otherwise the filter it holds. -/
def checkValid (s : State) (n : Nat) : Except CmdError BloomFilter :=
  match s.slotAt n with
  | some f => .ok f
  | none => .error ⟨.slotInvalid, BitVec.ofNat 32 n⟩

/-- `SizeCheck(n)` of R100: INVALID_SIZE, then SIZE_TOO_LARGE. -/
def sizeCheck (s : State) (n : Nat) : Except CmdError Unit :=
  if isPow2 n then
    if n ≤ s.cfg.maxWords then .ok () else .error ⟨.sizeTooLarge, BitVec.ofNat 32 n⟩
  else .error ⟨.invalidSize, BitVec.ofNat 32 n⟩

/-- `ArgCheck(n)` of R100: ARG_UNDERFLOW when fewer than `n` entries are queued. -/
def argCheck (s : State) (n : Nat) : Except CmdError Unit :=
  if s.argCount < n then .error ⟨.argUnderflow, pairInfo n s.argCount⟩ else .ok ()

/-- The word-index check of R108 and R109: WORD_RANGE when the index is outside the filter. -/
def indexCheck (f : BloomFilter) (i : Nat) : Except CmdError Unit :=
  if i < f.size then .ok () else .error ⟨.wordRange, BitVec.ofNat 32 i⟩

/-- `PairCheck(A, B)` of R140: SIZE_MISMATCH when the two filters differ in size. -/
def pairCheck (fa fb : BloomFilter) : Except CmdError Unit :=
  if fa.size = fb.size then .ok () else .error ⟨.sizeMismatch, pairInfo fa.size fb.size⟩

/-- The fold-down check of R161: REDUCE_EXPAND when the target is larger than the source. -/
def shrinkCheck (f : BloomFilter) (m : Nat) : Except CmdError Unit :=
  if m ≤ f.size then .ok () else .error ⟨.reduceExpand, pairInfo m f.size⟩

end Sys2Proof.Machine
end

