-- ==== Sys2Proof/Machine/Fold.lean ====
section
/-! DEFINITION. Machine/Fold.lean: the sub-block power_of_two_fold_reduce and REDUCE (`42_fold_reduce.md`). -/

namespace Sys2Proof.Machine

/-- One step of `Fold` (R160): `dst[i & (M-1)] <- dst[i & (M-1)] | src[i]`, for the pair of a source word and its index. -/
def foldStep (m : Nat) (dst : List Word) (p : Word × Nat) : List Word :=
  dst.set (p.2 &&& (m - 1)) (dst.getD (p.2 &&& (m - 1)) 0#32 ||| p.1)

/-- `Fold(src, N, M)` of R160. -/
def foldWords (src : List Word) (m : Nat) : List Word :=
  src.zipIdx.foldl (foldStep m) (List.replicate m 0#32)

/-- The fold of a filter to `m` words. -/
def BloomFilter.fold (f : BloomFilter) (m : Nat) : BloomFilter := { words := foldWords f.words m }

/-- REDUCE's rule (R161): slot `d` becomes the filter of slot `a` folded to `m` words. -/
def reduceEffect (d a m : Nat) (s : State) : Except CmdError State := do
  checkRange s d
  checkRange s a
  let f ← checkValid s a
  sizeCheck s m
  shrinkCheck f m
  return (s.putSlot d (some (f.fold m))).setResultSlot d

/-- REDUCE D, A, M (R161). -/
def execReduce (d a m : Nat) (s : State) : Host.Outcome State Fault Refusal :=
  s.finish Opcode.reduce.opc (reduceEffect d a m s)

end Sys2Proof.Machine
end

