-- ==== Sys2Proof/Machine/Membership.lean ====
section
/-! DEFINITION. Machine/Membership.lean: ADD and CONTAINS (`40_storage_membership.md`). -/

namespace Sys2Proof.Machine

/-- `SetBit` for each hash value in turn (R111). -/
def BloomFilter.setBits (f : BloomFilter) (hs : List Word) : BloomFilter := hs.foldl BloomFilter.setBit f

/-- Whether `GetBit` holds for every hash value; the empty AND is true (R112). -/
def BloomFilter.getBits (f : BloomFilter) (hs : List Word) : Bool := hs.all f.getBit

/-- ADD's rule (R111): the bit of each of the `n` oldest entries is set in slot `d`. -/
def addEffect (d n : Nat) (s : State) : Except CmdError State := do
  checkRange s d
  let f ← checkValid s d
  argCheck s n
  return ((s.argDrop n).putSlot d (some (f.setBits (s.argFirst n)))).setResultSlot d

/-- ADD D, n (R111). -/
def execAdd (d n : Nat) (s : State) : Host.Outcome State Fault Refusal :=
  s.finish Opcode.add.opc (addEffect d n s)

/-- CONTAINS's rule (R112): whether every one of the `n` oldest entries has its bit set in slot `a`; all `n` are consumed. -/
def containsEffect (a n : Nat) (s : State) : Except CmdError State := do
  checkRange s a
  let f ← checkValid s a
  argCheck s n
  return (s.argDrop n).setResult (boolWord (f.getBits (s.argFirst n)))

/-- CONTAINS A, n (R112). -/
def execContains (a n : Nat) (s : State) : Host.Outcome State Fault Refusal :=
  s.finish Opcode.contains.opc (containsEffect a n s)

end Sys2Proof.Machine
end

