-- ==== Sys2Proof/Machine/SetOps.lean ====
section
/-! DEFINITION. Machine/SetOps.lean: UNION, INTERSECT, SUBSET (`41_set_operations.md`). -/

namespace Sys2Proof.Machine

/-- The word-wise OR of two filters of one size (R141). -/
def BloomFilter.union (fa fb : BloomFilter) : BloomFilter := { words := List.zipWith (· ||| ·) fa.words fb.words }

/-- The word-wise AND of two filters of one size (R142). -/
def BloomFilter.inter (fa fb : BloomFilter) : BloomFilter := { words := List.zipWith (· &&& ·) fa.words fb.words }

/-- Whether every word of `fa` ANDed with that of `fb` is the word of `fa` (R143). -/
def BloomFilter.subset (fa fb : BloomFilter) : Bool :=
  (List.zipWith (fun x y => x &&& y == x) fa.words fb.words).all id

/-- The checks that UNION and INTERSECT share (R141, R142): the operand filters. -/
def pairOperands (d a b : Nat) (s : State) : Except CmdError (BloomFilter × BloomFilter) := do
  checkRange s d
  checkRange s a
  checkRange s b
  let fa ← checkValid s a
  let fb ← checkValid s b
  pairCheck fa fb
  return (fa, fb)

/-- UNION's rule (R141): slot `d` becomes the word-wise OR of the old contents of slots `a` and `b`. -/
def unionEffect (d a b : Nat) (s : State) : Except CmdError State := do
  let p ← pairOperands d a b s
  return (s.putSlot d (some (p.1.union p.2))).setResultSlot d

/-- UNION D, A, B (R141). -/
def execUnion (d a b : Nat) (s : State) : Host.Outcome State Fault Refusal :=
  s.finish Opcode.union.opc (unionEffect d a b s)

/-- INTERSECT's rule (R142): slot `d` becomes the word-wise AND of the old contents of slots `a` and `b`. -/
def intersectEffect (d a b : Nat) (s : State) : Except CmdError State := do
  let p ← pairOperands d a b s
  return (s.putSlot d (some (p.1.inter p.2))).setResultSlot d

/-- INTERSECT D, A, B (R142). -/
def execIntersect (d a b : Nat) (s : State) : Host.Outcome State Fault Refusal :=
  s.finish Opcode.intersect.opc (intersectEffect d a b s)

/-- SUBSET's rule (R143): RESULT is 1 when every bit set in slot `a` is set in slot `b`, else 0. -/
def subsetEffect (a b : Nat) (s : State) : Except CmdError State := do
  checkRange s a
  checkRange s b
  let fa ← checkValid s a
  let fb ← checkValid s b
  pairCheck fa fb
  return s.setResult (boolWord (fa.subset fb))

/-- SUBSET A, B (R143). -/
def execSubset (a b : Nat) (s : State) : Host.Outcome State Fault Refusal :=
  s.finish Opcode.subset.opc (subsetEffect a b s)

end Sys2Proof.Machine
end

