-- ==== Sys2Proof/Machine/Storage.lean ====
section
/-! DEFINITION. Machine/Storage.lean: CONSTRUCT, RELEASE, LOADW, READW, GETSIZE (`40_storage_membership.md`). -/

namespace Sys2Proof.Machine

/-- CONSTRUCT's rule (R106): a zero-filled filter of `n` words in slot `d`. -/
def constructEffect (d n : Nat) (s : State) : Except CmdError State := do
  checkRange s d
  sizeCheck s n
  return (s.putSlot d (some (.zero n))).setResultSlot d

/-- CONSTRUCT D, N (R106). -/
def execConstruct (d n : Nat) (s : State) : Host.Outcome State Fault Refusal :=
  s.finish Opcode.construct.opc (constructEffect d n s)

/-- RELEASE's rule (R107): slot `d` becomes invalid and keeps no value (R23). -/
def releaseEffect (d : Nat) (s : State) : Except CmdError State := do
  checkRange s d
  return (s.putSlot d none).setResultSlot d

/-- RELEASE D (R107). -/
def execRelease (d : Nat) (s : State) : Host.Outcome State Fault Refusal :=
  s.finish Opcode.release.opc (releaseEffect d s)

/-- LOADW's rule (R108): word `i` of slot `d` becomes the oldest operand-queue entry. -/
def loadwEffect (d i : Nat) (s : State) : Except CmdError State := do
  checkRange s d
  let f ← checkValid s d
  indexCheck f i
  argCheck s 1
  return (s.argPop.putSlot d (some { words := f.words.set i s.argFront })).setResultSlot d

/-- LOADW D, i (R108). -/
def execLoadw (d i : Nat) (s : State) : Host.Outcome State Fault Refusal :=
  s.finish Opcode.loadw.opc (loadwEffect d i s)

/-- READW's rule (R109): RESULT becomes word `i` of slot `a`. -/
def readwEffect (a i : Nat) (s : State) : Except CmdError State := do
  checkRange s a
  let f ← checkValid s a
  indexCheck f i
  return s.setResult (f.word i)

/-- READW A, i (R109). -/
def execReadw (a i : Nat) (s : State) : Host.Outcome State Fault Refusal :=
  s.finish Opcode.readw.opc (readwEffect a i s)

/-- GETSIZE's rule (R110): RESULT becomes the word count of slot `a`. -/
def getsizeEffect (a : Nat) (s : State) : Except CmdError State := do
  checkRange s a
  let f ← checkValid s a
  return s.setResult (BitVec.ofNat 32 f.size)

/-- GETSIZE A (R110). -/
def execGetsize (a : Nat) (s : State) : Host.Outcome State Fault Refusal :=
  s.finish Opcode.getsize.opc (getsizeEffect a s)

end Sys2Proof.Machine
end

