-- ==== Sys2Proof/Machine/Summaries.lean ====
section
/-! DEFINITION. Machine/Summaries.lean: HASH, and the sub-block popcount_density with DENSITY (`43_summaries.md`). -/

namespace Sys2Proof.Machine

/-- `XorFold(words, N)` of R180. -/
def xorFold (ws : List Word) : Word := ws.foldl (· ^^^ ·) 0#32

/-- `popcount32(w)` of R182: the number of bits equal to 1 among bits 0 to 31. -/
def popcount32 (w : Word) : Nat := (List.range 32).countP (fun k => w.getLsbD k)

/-- `Density(words, N)` of R182, an exact sum. -/
def density (ws : List Word) : Nat := (ws.map popcount32).sum

/-- The parallel bit count of R184 for one word, all arithmetic modulo 2^32. Informative: no command uses it (log 15). -/
def popcountParallel (w : Word) : Nat :=
  let x := w - ((w >>> 1) &&& 0x55555555#32)
  let y := (x &&& 0x33333333#32) + ((x >>> 2) &&& 0x33333333#32)
  let z := (y + (y >>> 4)) &&& 0x0F0F0F0F#32
  ((z * 0x01010101#32) >>> 24).toNat

/-- HASH's rule (R181): RESULT becomes the XOR fold of slot `a`. -/
def hashEffect (a : Nat) (s : State) : Except CmdError State := do
  checkRange s a
  let f ← checkValid s a
  return s.setResult (xorFold f.words)

/-- HASH A (R181). -/
def execHash (a : Nat) (s : State) : Host.Outcome State Fault Refusal :=
  s.finish Opcode.hash.opc (hashEffect a s)

/-- DENSITY's rule (R183): RESULT becomes the number of set bits of slot `a`. -/
def densityEffect (a : Nat) (s : State) : Except CmdError State := do
  checkRange s a
  let f ← checkValid s a
  return s.setResult (BitVec.ofNat 32 (density f.words))

/-- DENSITY A (R183). -/
def execDensity (a : Nat) (s : State) : Host.Outcome State Fault Refusal :=
  s.finish Opcode.density.opc (densityEffect a s)

end Sys2Proof.Machine
end

