-- ==== Sys2Proof/Machine/Dispatch.lean ====
section
/-! DEFINITION. Machine/Dispatch.lean: the meaning of each command, run at its completion (R29, R90). -/

namespace Sys2Proof.Machine

def exec (i : Instr) (s : State) : Host.Outcome State Fault Refusal :=
  match i with
  | .construct d n => Sys2Proof.Machine.execConstruct d n s
  | .release d => Sys2Proof.Machine.execRelease d s
  | .loadw d k => Sys2Proof.Machine.execLoadw d k s
  | .readw a k => Sys2Proof.Machine.execReadw a k s
  | .getsize a => Sys2Proof.Machine.execGetsize a s
  | .add d n => Sys2Proof.Machine.execAdd d n s
  | .contains a n => Sys2Proof.Machine.execContains a n s
  | .union d a b => Sys2Proof.Machine.execUnion d a b s
  | .intersect d a b => Sys2Proof.Machine.execIntersect d a b s
  | .subset a b => Sys2Proof.Machine.execSubset a b s
  | .reduce d a m => Sys2Proof.Machine.execReduce d a m s
  | .hash a => Sys2Proof.Machine.execHash a s
  | .density a => Sys2Proof.Machine.execDensity a s

end Sys2Proof.Machine
end

