-- ==== Sys2Proof/Machine/Engine.lean ====
section
/-! DEFINITION. Machine/Engine.lean: the engine's step: decoding and running the command in flight (R29, R90). -/

namespace Sys2Proof.Machine

/-- `Execute(c)` and the completion (R29, R90): the command's rule, or the error its word decodes to. -/
def execute (c : Word) (s : State) : Host.Outcome State Fault Refusal :=
  match decode c with
  | .ok i => exec i s
  | .illegalOpcode => s.finish (fieldOpc c) (.error ⟨.illegalOpcode, c⟩)
  | .reservedField => s.finish (fieldOpc c) (.error ⟨.reservedField, c⟩)

/-- The engine's turn (R29): enabled only while BUSY = 1; otherwise nothing happens. -/
def engineTurn (s : State) : Host.Outcome State Fault Refusal :=
  match s.pending with
  | some c => execute c s
  | none => .next s

/-- A command word put where the engine takes its next command: PENDING (R29). -/
def State.latch (s : State) (c : Word) : State := { s with pending := some c }

end Sys2Proof.Machine
end

