-- ==== Sys2Proof/Machine/Step.lean ====
section
/-! DEFINITION. Machine/Step.lean: one step of the machine: the next move of host, engine or reset line (R13). -/

namespace Sys2Proof.Machine

/-- One step: the first move of `turns`, performed whole; when there is none, the engine's turn (log 3). -/
def step (s : State) : Host.Outcome State Fault Refusal :=
  match s.turns with
  | [] => engineTurn s
  | .engine :: rest => engineTurn { s with turns := rest }
  | .host a :: rest => .next (State.hostAccess { s with turns := rest } a)
  | .reset :: rest => .next (State.resetEffect { s with turns := rest })

/-- The command word in PENDING (BUSY = 1) and the engine's turn next, so that the very next step runs it (log 4). -/
def State.withFetchWord (s : State) (nbits w : Nat) : State :=
  { s.latch (BitVec.ofNat 32 (w % 2 ^ nbits)) with turns := .engine :: s.turns }

end Sys2Proof.Machine
end

