-- ==== Sys2Proof/Machine/Assembler.lean ====
section
/-! DEFINITION. Machine/Assembler.lean: the host's side of the interface: the assembler's statements as moves of the machine
(R91), its pseudo-instructions (R92), the source's operations as command sequences (R80), and the text form of a line. -/

namespace Sys2Proof.Machine

/-- The registers a `rd` statement names (R91). -/
inductive ReadReg where
  | id | config | ctrl | status | result | errcode | errinfo
deriving DecidableEq, Repr

/-- Their offsets (R30). -/
def ReadReg.offset : ReadReg → Byte
  | .id => 0x00#8
  | .config => 0x04#8
  | .ctrl => 0x08#8
  | .status => 0x0C#8
  | .result => 0x18#8
  | .errcode => 0x1C#8
  | .errinfo => 0x20#8

/-- The registers a `wr` statement names (R91). -/
inductive WriteReg where
  | ctrl | status
deriving DecidableEq, Repr

/-- Their offsets (R30). -/
def WriteReg.offset : WriteReg → Byte
  | .ctrl => 0x08#8
  | .status => 0x0C#8

/-- The statements of R91. -/
inductive Stmt where
  /-- a command statement: a CMD write of its word -/
  | cmd (i : Instr)
  /-- `arg v` -/
  | arg (v : Word)
  /-- `wait` -/
  | wait
  /-- `rd REG` -/
  | rd (r : ReadReg)
  /-- `wr REG, v` -/
  | wr (r : WriteReg) (v : Word)
deriving DecidableEq, Repr

/-- `BusRead(off)` as a move. -/
def readTurn (off : Byte) : Turn := .host (BusAccess.read off)

/-- `BusWrite(off, v)` as a move. -/
def writeTurn (off : Byte) (v : Word) : Turn := .host (BusAccess.writeWord off v)

/-- The moves of a statement (R91). A `wait` reads STATUS until BUSY reads 0: `polls` reads find the command still in flight,
then it completes, then one read ends the wait; the count is the model's argument (log 12). -/
def Stmt.moves (polls : Nat) : Stmt → List Turn
  | .cmd i => [writeTurn 0x10#8 (encode i)]
  | .arg v => [writeTurn 0x14#8 v]
  | .wait => List.replicate polls (readTurn 0x0C#8) ++ [.engine, readTurn 0x0C#8]
  | .rd r => [readTurn r.offset]
  | .wr r v => [writeTurn r.offset v]

/-- The poll counts left for the statements after this one: a `wait` uses up the first. -/
def Stmt.pollsLeft (polls : List Nat) : Stmt → List Nat
  | .cmd _ => polls
  | .arg _ => polls
  | .wait => polls.tail
  | .rd _ => polls
  | .wr _ _ => polls

/-- The moves of a host program. R91 leaves the number of polls to each `wait`: `polls` gives one count for each `wait` of the
program, in order, and a `wait` without a count has 0. A `wait` that meets BUSY = 0 (R249) has count 0: the engine's move finds
no command in flight, and the one read ends it. That the counts are an argument, and that a command completes inside a `wait`,
is the model's choice (DESIGN CHOICE, log 12). -/
def programMoves : List Nat → List Stmt → List Turn
  | _, [] => []
  | polls, st :: p => st.moves (polls.headD 0) ++ programMoves (st.pollsLeft polls) p

/-- The pseudo-instructions of R92. -/
inductive Pseudo where
  /-- `addh sD, h1, ..., hn` -/
  | addh (d : Nat) (hs : List Word)
  /-- `containsh sA, h1, ..., hn` -/
  | containsh (a : Nat) (hs : List Word)
  /-- `loadwv sD, i, v` -/
  | loadwv (d i : Nat) (v : Word)
  /-- `construct_seq sD, w0, ..., w(N-1)` -/
  | constructSeq (d : Nat) (ws : List Word)
  /-- `copy sD, sA` -/
  | copy (d a : Nat)
  /-- `fold sD, sA, M` -/
  | fold (d a m : Nat)
  /-- `xsubset sA, sB, sT` -/
  | xsubset (a b t : Nat)
  /-- `clrerr` -/
  | clrerr
deriving DecidableEq, Repr

/-- One command and the wait that R92 puts after it. -/
def issue (i : Instr) : List Stmt := [.cmd i, .wait]

/-- `loadwv sD, i, v` (R92). -/
def loadWord (d i : Nat) (v : Word) : List Stmt := .arg v :: issue (.loadw d i)

/-- `construct_seq` (R92) and construction from a word sequence (R80, R106): CONSTRUCT, then one LOADW for each word. The spec does
not say what a host does with a sequence of more than 65535 words, whose length does not fit IMM16: the model still gives these
statements, and the high bits of the length stand in fields A and D of the encoded word (DESIGN CHOICE, log 22). -/
def constructSequence (d : Nat) (ws : List Word) : List Stmt :=
  issue (.construct d ws.length) ++ (ws.zipIdx.map (fun p => loadWord d p.2 p.1)).flatten

/-- The expansion of a pseudo-instruction (R92). `m` is what `rd RESULT` returned to the host inside `xsubset`; no other
expansion uses it (log 12). `clrerr` is the one write of its row, without a `wait` (log 12). -/
def Pseudo.expand (m : Nat) : Pseudo → List Stmt
  | .addh d hs => hs.map .arg ++ issue (.add d hs.length)
  | .containsh a hs => hs.map .arg ++ issue (.contains a hs.length)
  | .loadwv d i v => loadWord d i v
  | .constructSeq d ws => constructSequence d ws
  | .copy d a => issue (.union d a a)
  | .fold d a k => issue (.reduce d a k)
  | .xsubset a b t => issue (.getsize b) ++ [.rd .result] ++ issue (.reduce t a m) ++ issue (.subset t b)
  | .clrerr => [.wr .status 0x00000006#32]

/-- The operand counts R92 allows on a block: 1 to ARGQ_DEPTH for `addh` and `containsh`. -/
def Pseudo.fits (c : Config) : Pseudo → Bool
  | .addh _ hs => decide (1 ≤ hs.length ∧ hs.length ≤ c.argqDepth)
  | .containsh _ hs => decide (1 ≤ hs.length ∧ hs.length ≤ c.argqDepth)
  | .loadwv _ _ _ => true
  | .constructSeq _ _ => true
  | .copy _ _ => true
  | .fold _ _ _ => true
  | .xsubset _ _ _ => true
  | .clrerr => true

/-- The operations of the source's API, each on the slots that hold its filters (R2, R80). -/
inductive SourceOp where
  /-- `construct(hashFunctions, n)` -/
  | constructCount (d n : Nat)
  /-- `construct(hashFunctions, wordSeq)` -/
  | constructWords (d : Nat) (ws : List Word)
  /-- `add(items...)`, its hash values computed by the host -/
  | add (self : Nat) (hs : List Word)
  /-- `contains(item)` -/
  | contains (self : Nat) (hs : List Word)
  /-- `union(other)` -/
  | union (d self other : Nat)
  /-- `intersect(other)` -/
  | intersect (d self other : Nat)
  /-- `subset(other)` -/
  | subset (self other : Nat)
  /-- `reduce_to(size)` -/
  | reduceTo (d self size : Nat)
  /-- `hash()` -/
  | hash (self : Nat)
  /-- `density()` -/
  | density (self : Nat)
  /-- scope exit -/
  | scopeExit (self : Nat)
  /-- reading `words` -/
  | readWord (self i : Nat)
  /-- reading `size` -/
  | readSize (self : Nat)
deriving DecidableEq, Repr

/-- A list cut into pieces of `k` entries and a last piece of at most `k`; a list of at most `k` entries, the empty one too, is
one piece. `fuel` bounds the number of cuts. R80 and R111 say only that a long add is split into several ADDs: full pieces first
and one shorter piece last is the model's choice (DESIGN CHOICE, log 21). -/
def chunks (k : Nat) : Nat → List Word → List (List Word)
  | 0, ws => [ws]
  | fuel + 1, ws => if ws.length ≤ k then [ws] else ws.take k :: chunks k fuel (ws.drop k)

/-- The command sequence of a source operation (R80), each command issued as R245 says. An `add` of more than ARGQ_DEPTH
values is split into several ADDs (R80, R111; the sizes of the pieces: log 21); one of no values is `ADD D, 0`, which writes
RESULT (R111). Operands that no command word or no operand queue can hold are not refused here (log 22). -/
def SourceOp.statements (c : Config) : SourceOp → List Stmt
  | .constructCount d n => issue (.construct d n)
  | .constructWords d ws => constructSequence d ws
  | .add d hs => ((chunks c.argqDepth hs.length hs).map (fun g => g.map .arg ++ issue (.add d g.length))).flatten
  | .contains a hs => hs.map .arg ++ issue (.contains a hs.length)
  | .union d a b => issue (.union d a b)
  | .intersect d a b => issue (.intersect d a b)
  | .subset a b => issue (.subset a b)
  | .reduceTo d a m => issue (.reduce d a m)
  | .hash a => issue (.hash a)
  | .density a => issue (.density a)
  | .scopeExit d => issue (.release d)
  | .readWord a i => issue (.readw a i)
  | .readSize a => issue (.getsize a)

/-! ## The text of a line (R91): one statement, `;` starts a comment, operands separated by commas

What R91 leaves open in the text form (blanks, leading zeros, the case of hexadecimal digits, empty lines, values too large for
their field) is settled here as the model's choice: DESIGN CHOICE, log 20. -/

/-- What a line says: nothing (a line of blanks and comment only, log 20), a statement or a pseudo-instruction. -/
inductive Line where
  | blank
  | stmt (s : Stmt)
  | pseudo (p : Pseudo)
deriving DecidableEq, Repr

/-- A space or a tab: the blanks that separate (log 20). -/
def isBlankChar (ch : Char) : Bool := ch == ' ' || ch == '\t'

/-- Without the blanks at its two ends. -/
def trimBlanks (l : List Char) : List Char := ((l.dropWhile isBlankChar).reverse.dropWhile isBlankChar).reverse

/-- The value of a digit, hexadecimal digits in either case (log 20). -/
def digitValue (ch : Char) : Option Nat :=
  let n := ch.toNat
  if 48 ≤ n ∧ n ≤ 57 then some (n - 48)
  else if 97 ≤ n ∧ n ≤ 102 then some (n - 87)
  else if 65 ≤ n ∧ n ≤ 70 then some (n - 55)
  else none

/-- The number a non-empty list of digits of a base spells; leading zeros are accepted (log 20). -/
def digitsValue (base : Nat) (l : List Char) : Option Nat :=
  if l.isEmpty then none
  else l.foldl (fun acc ch => acc.bind (fun v => (digitValue ch).bind (fun x => if x < base then some (v * base + x) else none))) (some 0)

/-- A number: decimal, or `0x` and hexadecimal (R91); leading zeros are accepted, `0X` is not (log 20). -/
def parseNumber : List Char → Option Nat
  | '0' :: 'x' :: ds => digitsValue 16 ds
  | ds => digitsValue 10 ds

/-- A 32-bit number; a larger one is refused (log 20). -/
def parseWord (l : List Char) : Option Word :=
  (parseNumber l).bind (fun n => if n < 2 ^ 32 then some (BitVec.ofNat 32 n) else none)

/-- A slot, `s0` to `s15` (R91). The decimal number may have leading zeros: `s007` is read as `s7`, which R91 does not say
(DESIGN CHOICE, log 20). -/
def parseSlot : List Char → Option Nat
  | 's' :: ds => (digitsValue 10 ds).bind (fun n => if n < 16 then some n else none)
  | _ => none

/-- A number that fits IMM16; a larger one is refused (log 20). -/
def parseImm (l : List Char) : Option Nat := (parseNumber l).bind (fun n => if n < 65536 then some n else none)

/-- Several 32-bit numbers. -/
def parseWords : List (List Char) → Option (List Word)
  | [] => some []
  | l :: rest => do
    let v ← parseWord l
    let vs ← parseWords rest
    return v :: vs

/-- A register of `rd`. -/
def parseReadReg (l : List Char) : Option ReadReg :=
  if l = "ID".toList then some .id
  else if l = "CONFIG".toList then some .config
  else if l = "CTRL".toList then some .ctrl
  else if l = "STATUS".toList then some .status
  else if l = "RESULT".toList then some .result
  else if l = "ERRCODE".toList then some .errcode
  else if l = "ERRINFO".toList then some .errinfo
  else none

/-- A register of `wr`. -/
def parseWriteReg (l : List Char) : Option WriteReg :=
  if l = "CTRL".toList then some .ctrl else if l = "STATUS".toList then some .status else none

/-- The operands `sX, n`. -/
def parseSlotImm (mk : Nat → Nat → Instr) : List (List Char) → Option Line
  | [x, y] => do return .stmt (.cmd (mk (← parseSlot x) (← parseImm y)))
  | _ => none

/-- The operand `sX`. -/
def parseOneSlot (mk : Nat → Instr) : List (List Char) → Option Line
  | [x] => do return .stmt (.cmd (mk (← parseSlot x)))
  | _ => none

/-- The operands `sD, sA, sB`. -/
def parseThreeSlots (mk : Nat → Nat → Nat → Instr) : List (List Char) → Option Line
  | [x, y, z] => do return .stmt (.cmd (mk (← parseSlot x) (← parseSlot y) (← parseSlot z)))
  | _ => none

/-- A mnemonic and its operands (R91, R92). -/
def parseStatement (m : List Char) (ops : List (List Char)) : Option Line :=
  if m = "construct".toList then parseSlotImm .construct ops
  else if m = "release".toList then parseOneSlot .release ops
  else if m = "loadw".toList then parseSlotImm .loadw ops
  else if m = "readw".toList then parseSlotImm .readw ops
  else if m = "getsize".toList then parseOneSlot .getsize ops
  else if m = "add".toList then parseSlotImm .add ops
  else if m = "contains".toList then parseSlotImm .contains ops
  else if m = "union".toList then parseThreeSlots .union ops
  else if m = "intersect".toList then parseThreeSlots .intersect ops
  else if m = "subset".toList then
    match ops with
    | [x, y] => do return .stmt (.cmd (.subset (← parseSlot x) (← parseSlot y)))
    | _ => none
  else if m = "reduce".toList then
    match ops with
    | [x, y, z] => do return .stmt (.cmd (.reduce (← parseSlot x) (← parseSlot y) (← parseImm z)))
    | _ => none
  else if m = "hash".toList then parseOneSlot .hash ops
  else if m = "density".toList then parseOneSlot .density ops
  else if m = "arg".toList then
    match ops with
    | [x] => do return .stmt (.arg (← parseWord x))
    | _ => none
  else if m = "wait".toList then if ops.isEmpty then some (.stmt .wait) else none
  else if m = "rd".toList then
    match ops with
    | [x] => do return .stmt (.rd (← parseReadReg x))
    | _ => none
  else if m = "wr".toList then
    match ops with
    | [x, y] => do return .stmt (.wr (← parseWriteReg x) (← parseWord y))
    | _ => none
  else if m = "addh".toList then
    match ops with
    | x :: y :: zs => do return .pseudo (.addh (← parseSlot x) (← parseWords (y :: zs)))
    | _ => none
  else if m = "containsh".toList then
    match ops with
    | x :: y :: zs => do return .pseudo (.containsh (← parseSlot x) (← parseWords (y :: zs)))
    | _ => none
  else if m = "loadwv".toList then
    match ops with
    | [x, y, z] => do return .pseudo (.loadwv (← parseSlot x) (← parseImm y) (← parseWord z))
    | _ => none
  else if m = "construct_seq".toList then
    match ops with
    | x :: y :: zs => do return .pseudo (.constructSeq (← parseSlot x) (← parseWords (y :: zs)))
    | _ => none
  else if m = "copy".toList then
    match ops with
    | [x, y] => do return .pseudo (.copy (← parseSlot x) (← parseSlot y))
    | _ => none
  else if m = "fold".toList then
    match ops with
    | [x, y, z] => do return .pseudo (.fold (← parseSlot x) (← parseSlot y) (← parseImm z))
    | _ => none
  else if m = "xsubset".toList then
    match ops with
    | [x, y, z] => do return .pseudo (.xsubset (← parseSlot x) (← parseSlot y) (← parseSlot z))
    | _ => none
  else if m = "clrerr".toList then if ops.isEmpty then some (.pseudo .clrerr) else none
  else none

/-- The pieces of a list between its commas (R91); no piece of an empty list. -/
def splitCommas : List Char → List (List Char)
  | [] => []
  | ch :: rest =>
    match splitCommas rest with
    | [] => if ch == ',' then [[], []] else [[ch]]
    | p :: ps => if ch == ',' then [] :: p :: ps else (ch :: p) :: ps

/-- The assembler's reading of one line of text (R91, R92); `none` for a line that is no statement. The first blank ends the
mnemonic, and blanks around an operand are dropped (log 20). -/
def parseLine (l : List Char) : Option Line :=
  let body := trimBlanks (l.takeWhile (fun ch => ch != ';'))
  if body.isEmpty then some .blank
  else
    let m := body.takeWhile (fun ch => !isBlankChar ch)
    let rest := trimBlanks (body.dropWhile (fun ch => !isBlankChar ch))
    parseStatement m ((splitCommas rest).map trimBlanks)

end Sys2Proof.Machine
end

