-- ==== Sys2Proof/Safety.lean ====
section
/-! DEFINITION. Safety.lean: the terms claims are stated in: the state invariant, the checks a command makes in their order, what a
host may do while a command is in flight, what ends a filter, and the end of a run. -/

namespace Sys2Proof.Machine

/-! ## The invariant -/

/-- CODE, bits 7:0 of ERRCODE (R38). -/
def State.errCodeField (s : State) : Byte := s.errCode.extractLsb' 0 8

/-- ERRCODE and ERRINFO hold a recorded error, or nothing was recorded since reset (R38, R201): reserved bits read 0, CODE is at
most 0x0C, CODE 0 means that both words are 0 and ERR is 0. -/
def State.errRecordWf (s : State) : Bool :=
  (s.errCode.extractLsb' 16 16 == 0#16) && decide (s.errCodeField.toNat ≤ 0x0C) &&
    (s.errCodeField != 0#8 || (s.errCode == 0#32 && s.errInfo == 0#32 && !s.err))

/-- The state invariant: legal parameters (R6), slot storage in its canonical form (R20, R21), at most ARGQ_DEPTH operands
(R24), a well-formed error record (R38). -/
def State.wf (s : State) : Bool :=
  s.cfg.legal && s.slots.wf s.cfg && decide (s.argCount ≤ s.cfg.argqDepth) && s.errRecordWf

/-! ## The checks of a command, in the order of R204 -/

/-- One check a command makes. -/
inductive Check where
  /-- the slot number is below NSLOT -/
  | slotRange (n : Nat)
  /-- the slot holds a filter -/
  | slotInvalid (n : Nat)
  /-- the size is a power of two -/
  | invalidSize (n : Nat)
  /-- the size is at most MAX_WORDS -/
  | sizeTooLarge (n : Nat)
  /-- the two slots hold filters of one size -/
  | sizeMismatch (a b : Nat)
  /-- the target size is at most the size of the slot -/
  | reduceExpand (m a : Nat)
  /-- the word index is inside the slot -/
  | wordRange (i n : Nat)
  /-- the operand queue holds that many entries -/
  | argUnderflow (n : Nat)
deriving DecidableEq, Repr

/-- The size of the filter in a slot; 0 for a slot without one (the checks that use it come after SLOT_INVALID). -/
def State.sizeAt (s : State) (n : Nat) : Nat := ((s.slotAt n).map BloomFilter.size).getD 0

/-- Whether a check fails (R100, R140, R161, R201). -/
def Check.fails (s : State) : Check → Bool
  | .slotRange n => decide (s.cfg.nslot ≤ n)
  | .slotInvalid n => (s.slotAt n).isNone
  | .invalidSize n => !isPow2 n
  | .sizeTooLarge n => decide (s.cfg.maxWords < n)
  | .sizeMismatch a b => decide (s.sizeAt a ≠ s.sizeAt b)
  | .reduceExpand m a => decide (s.sizeAt a < m)
  | .wordRange i n => decide (s.sizeAt n ≤ i)
  | .argUnderflow n => decide (s.argCount < n)

/-- The error a failed check raises: CODE and ERRINFO of R201. -/
def Check.error (s : State) : Check → CmdError
  | .slotRange n => ⟨.slotRange, BitVec.ofNat 32 n⟩
  | .slotInvalid n => ⟨.slotInvalid, BitVec.ofNat 32 n⟩
  | .invalidSize n => ⟨.invalidSize, BitVec.ofNat 32 n⟩
  | .sizeTooLarge n => ⟨.sizeTooLarge, BitVec.ofNat 32 n⟩
  | .sizeMismatch a b => ⟨.sizeMismatch, pairInfo (s.sizeAt a) (s.sizeAt b)⟩
  | .reduceExpand m a => ⟨.reduceExpand, pairInfo m (s.sizeAt a)⟩
  | .wordRange i _ => ⟨.wordRange, BitVec.ofNat 32 i⟩
  | .argUnderflow n => ⟨.argUnderflow, pairInfo n s.argCount⟩

/-- The checks of each command in the order of R204, from the table of R202. -/
def checksOf : Instr → List Check
  | .construct d n => [.slotRange d, .invalidSize n, .sizeTooLarge n]
  | .release d => [.slotRange d]
  | .loadw d i => [.slotRange d, .slotInvalid d, .wordRange i d, .argUnderflow 1]
  | .readw a i => [.slotRange a, .slotInvalid a, .wordRange i a]
  | .getsize a => [.slotRange a, .slotInvalid a]
  | .add d n => [.slotRange d, .slotInvalid d, .argUnderflow n]
  | .contains a n => [.slotRange a, .slotInvalid a, .argUnderflow n]
  | .union d a b => [.slotRange d, .slotRange a, .slotRange b, .slotInvalid a, .slotInvalid b, .sizeMismatch a b]
  | .intersect d a b => [.slotRange d, .slotRange a, .slotRange b, .slotInvalid a, .slotInvalid b, .sizeMismatch a b]
  | .subset a b => [.slotRange a, .slotRange b, .slotInvalid a, .slotInvalid b, .sizeMismatch a b]
  | .reduce d a m => [.slotRange d, .slotRange a, .slotInvalid a, .invalidSize m, .sizeTooLarge m, .reduceExpand m a]
  | .hash a => [.slotRange a, .slotInvalid a]
  | .density a => [.slotRange a, .slotInvalid a]

/-- The error a command reports, if any: that of the first check that fails (R204). -/
def firstError (i : Instr) (s : State) : Option CmdError :=
  ((checksOf i).find? (Check.fails s)).map (Check.error s)

/-- The state after a command ended in an error, written out from R29, R200, R203 and R207: no slot, operand or RESULT changes,
the first error is kept, DONE is 1 and BUSY is 0. -/
def State.failed (s : State) (code opc : Byte) (info : Word) : State :=
  { s with
    done := true
    pending := none
    err := true
    errCode := if s.err then s.errCode else 0#16 ++ opc ++ code
    errInfo := if s.err then s.errInfo else info }

/-- A command word with an assigned opcode breaks a must-be-zero field, field by field as R87 lists them: the A field of format
DN, the D field of format AN, Z12 of format DAB, the D field of SUBSET, IMM16 of RELEASE, GETSIZE, HASH and DENSITY. -/
def mustBeZeroBroken (c : Word) : Bool :=
  ([0x01#8, 0x02#8, 0x03#8, 0x10#8].contains (fieldOpc c) && c.extractLsb' 16 4 != 0#4) ||
  ([0x04#8, 0x05#8, 0x11#8, 0x40#8, 0x41#8].contains (fieldOpc c) && c.extractLsb' 20 4 != 0#4) ||
  ([0x20#8, 0x21#8, 0x22#8].contains (fieldOpc c) && c.extractLsb' 0 12 != 0#12) ||
  (fieldOpc c == 0x22#8 && c.extractLsb' 20 4 != 0#4) ||
  ([0x02#8, 0x05#8, 0x40#8, 0x41#8].contains (fieldOpc c) && c.extractLsb' 0 16 != 0#16)

/-- The opcodes that R88 lists as not assigned. -/
def unassignedOpc (b : Byte) : Bool :=
  b.toNat == 0x00 || (0x06 ≤ b.toNat && b.toNat ≤ 0x0F) || (0x12 ≤ b.toNat && b.toNat ≤ 0x1F) ||
    (0x23 ≤ b.toNat && b.toNat ≤ 0x2F) || (0x31 ≤ b.toNat && b.toNat ≤ 0x3F) || (0x42 ≤ b.toNat && b.toNat ≤ 0xFF)

/-! ## What may change -/

/-- The move is a reset: of the line, or a soft reset by a performed CTRL write with bit 9 set (R240, R242). -/
def Turn.isReset : Turn → Bool
  | .reset => true
  | .host a => a.legal && a.write && a.addr == 0x08#8 && a.wdata.getLsbD 9
  | .engine => false

/-- The next move of a state: the first of `turns`, or the engine's. -/
def State.nextTurn (s : State) : Turn := s.turns.headD .engine

/-- The moves left after the next one. -/
def State.restTurns (s : State) : List Turn := s.turns.tail

/-- The state with its next move taken from the moves to come, before that move has any effect. -/
def State.advance (s : State) : State := { s with turns := s.restTurns }

/-- What a host may do while BUSY = 1 without an error or a reset (R246): every read, STATUS writes, CTRL writes of the
enables, writes to registers that ignore them. -/
def BusAccess.allowedWhileBusy (a : BusAccess) : Bool :=
  !a.legal || !a.write ||
    !(a.addr == 0x10#8 || a.addr == 0x14#8 || (a.addr == 0x08#8 && (a.wdata.getLsbD 8 || a.wdata.getLsbD 9)))

/-- The command the next step of a state completes, if it completes one. -/
def State.completing (s : State) : Option Instr :=
  match s.nextTurn, s.pending with
  | .engine, some c =>
    match decode c with
    | .ok i => some i
    | .illegalOpcode => none
    | .reservedField => none
  | _, _ => none

/-- A command that installs a new filter in slot `d` or releases it (R22). -/
def endsFilter (d : Nat) : Instr → Bool
  | .construct x _ => x == d
  | .release x => x == d
  | .loadw _ _ => false
  | .readw _ _ => false
  | .getsize _ => false
  | .add _ _ => false
  | .contains _ _ => false
  | .union x _ _ => x == d
  | .intersect x _ _ => x == d
  | .subset _ _ => false
  | .reduce x _ _ => x == d
  | .hash _ => false
  | .density _ => false

/-- A command that writes slot `d`: the column "slot written" of R22. -/
def writesSlot (d : Nat) : Instr → Bool
  | .construct x _ => x == d
  | .release x => x == d
  | .loadw x _ => x == d
  | .readw _ _ => false
  | .getsize _ => false
  | .add x _ => x == d
  | .contains _ _ => false
  | .union x _ _ => x == d
  | .intersect x _ _ => x == d
  | .subset _ _ => false
  | .reduce x _ _ => x == d
  | .hash _ => false
  | .density _ => false

/-- A LOADW that overwrites the word of slot `d` that holds bit number `g` with a word in which that bit is clear. -/
def clearsBit (d g : Nat) (s : State) : Instr → Bool
  | .construct _ _ => false
  | .release _ => false
  | .loadw x i => x == d && i == g / 32 && !s.argFront.getLsbD (g % 32)
  | .readw _ _ => false
  | .getsize _ => false
  | .add _ _ => false
  | .contains _ _ => false
  | .union _ _ _ => false
  | .intersect _ _ _ => false
  | .subset _ _ => false
  | .reduce _ _ _ => false
  | .hash _ => false
  | .density _ => false

/-- The next step of a state may lose bit number `g` of slot `d` (R113): a reset, a command that completes without error and
ends the filter, or a LOADW that clears the bit. -/
def State.losesBit (d g : Nat) (s : State) : Bool :=
  s.nextTurn.isReset ||
    match s.completing with
    | some i => (firstError i s).isNone && (endsFilter d i || clearsBit d g s i)
    | none => false

/-! ## Runs and their end (R13, R255) -/

/-- `k` steps from a state, stopping at the first fault or refusal. -/
def runSteps : Nat → State → Host.Outcome State Fault Refusal
  | 0, s => .next s
  | k + 1, s =>
    match step s with
    | .next t => runSteps k t
    | .fault r => .fault r
    | .refused r => .refused r

/-- The run has ended: the host has made its last access and BUSY = 0. -/
def State.runEnded (s : State) : Bool :=
  !s.busy && s.turns.all (fun t => match t with | .host _ => false | .engine => true | .reset => true)

/-- What the host's reads returned, in order: with the final state, the observation of a run. -/
def State.readValues (s : State) : List Word :=
  s.responses.filterMap (fun r => match r with | .data v => some v | .written => none | .busError => none)

end Sys2Proof.Machine
end

