-- ==== Sys2Proof/Certificates/Slice0/Obligations.lean ====
section
/-! DEFINITION. Certificates/Slice0/Obligations.lean: the statements about this machine, from the numbered rules of the spec. -/

open Sys2Proof Sys2Proof.Machine

/-! In every statement `turns` and `responses` are the model's own fields (log 3, log 9): a step takes its move, of the host, the
engine or the reset line (R13), from the front of `turns` and appends what the bus answered, if anything, to `responses`. -/

/-! ## Encoding -/

/-- The words of the spec's worked examples (R106 to R112, R141 to R143, R161, R181, R183) decode to the commands they stand for. -/
def Obligations.ExampleWordsDecode : Prop :=
  decode 0x01100008#32 = .ok (.construct 1 8) ∧ decode 0x02100000#32 = .ok (.release 1) ∧
  decode 0x03200003#32 = .ok (.loadw 2 3) ∧ decode 0x04020003#32 = .ok (.readw 2 3) ∧
  decode 0x05010000#32 = .ok (.getsize 1) ∧ decode 0x10100002#32 = .ok (.add 1 2) ∧
  decode 0x11010001#32 = .ok (.contains 1 1) ∧ decode 0x20312000#32 = .ok (.union 3 1 2) ∧
  decode 0x21412000#32 = .ok (.intersect 4 1 2) ∧ decode 0x22012000#32 = .ok (.subset 1 2) ∧
  decode 0x30650004#32 = .ok (.reduce 6 5 4) ∧ decode 0x40030000#32 = .ok (.hash 3) ∧
  decode 0x41030000#32 = .ok (.density 3)

/-- Decoding gives back every well-formed instruction from its encoding (R83, R86, R90, R91). -/
def Obligations.DecodeEncodeRoundTrip : Prop :=
  ∀ i : Instr, i.wellFormed = true → decode (encode i) = .ok i

/-- Every word that decodes to a command is the encoding of that one well-formed command, and carries its OPC (R86, R90). -/
def Obligations.EncodeDecodeRoundTrip : Prop :=
  ∀ (c : Word) (i : Instr), decode c = .ok i → i.wellFormed = true ∧ encode i = c ∧ fieldOpc c = i.opcode.opc

/-- A word is the command of a row exactly when its bits under the row's mask are the row's match (R86). -/
def Obligations.WordIsCommandExactlyWhenItMatchesItsRow : Prop :=
  ∀ (c : Word) (o : Opcode), (∃ i, decode c = .ok i ∧ i.opcode = o) ↔ c &&& o.mask = o.pattern

/-- R88: an unassigned opcode, the all-zero word among them, raises ILLEGAL_OPCODE with the word as information and has no
effect. -/
def Obligations.UnassignedOpcodeRaisesIllegalOpcode : Prop :=
  (∀ (s : State) (c : Word), s.nextTurn = .engine → s.pending = some c → unassignedOpc (fieldOpc c) = true →
    step s = .next (s.advance.failed 0x01#8 (fieldOpc c) c)) ∧
  (∀ b : Byte, unassignedOpc b = true ↔ ∀ o : Opcode, o.opc ≠ b) ∧ unassignedOpc (fieldOpc 0#32) = true

/-- R87: an assigned opcode with a nonzero must-be-zero bit raises RESERVED_FIELD with the word as information and has no
effect; the must-be-zero bits are exactly the bits of the row's mask outside OPC. -/
def Obligations.MustBeZeroBitRaisesReservedField : Prop :=
  (∀ (s : State) (c : Word), s.nextTurn = .engine → s.pending = some c → mustBeZeroBroken c = true →
    step s = .next (s.advance.failed 0x02#8 (fieldOpc c) c)) ∧
  (∀ (c : Word) (o : Opcode), fieldOpc c = o.opc →
    (mustBeZeroBroken c = true ↔ c &&& o.mask &&& 0x00FFFFFF#32 ≠ 0#32))

/-! ## The step -/

/-- The engine's turn runs exactly the command in PENDING (R29, R90): `exec` of the decoded command, on the state with that turn
taken from the moves to come. -/
def Obligations.EngineTurnRunsPendingCommand : Prop :=
  ∀ (s : State) (c : Word) (i : Instr), s.nextTurn = .engine → s.pending = some c → decode c = .ok i →
    step s = exec i s.advance

/-- Without a command in flight the engine's turn changes nothing but the moves to come (R29, R243). -/
def Obligations.IdleEngineTurnChangesNothing : Prop :=
  ∀ s : State, s.nextTurn = .engine → s.pending = none → step s = .next s.advance

/-- The issue protocol of R245: operands pushed by ARG writes, the command written to CMD, then its completion, from an idle
block without ERR and with room in ARGQ: the command runs on exactly the operands that stood before it and those pushed for
it, in their order. -/
def Obligations.IssuedCommandRunsOnItsOperands : Prop :=
  ∀ (s : State) (i : Instr) (hs : List Word) (rest : List Turn), i.wellFormed = true → s.err = false → s.pending = none →
    s.argq.length + hs.length ≤ s.cfg.argqDepth →
    s.turns = hs.map (writeTurn 0x14#8) ++ writeTurn 0x10#8 (encode i) :: .engine :: rest →
    runSteps (hs.length + 2) s =
      exec i { s with
        argq := s.argq ++ hs
        pending := some (encode i)
        turns := rest
        responses := s.responses ++ List.replicate (hs.length + 1) .written }

/-- The model's deduction (log 13, DEDUCED), which no rule states in these words: every step of every state ends in a next state.
It rests on the rules that the decoder is total (R90), that an error completes its command (R200, R203) and that a refused
access is answered (R53). -/
def Obligations.EveryStepEndsInANextState : Prop :=
  ∀ s : State, ∃ t, step s = .next t

/-- A command in flight completes (R29, R254). When no move to come is a reset, hardware or soft, the command in PENDING is run by
an engine step among the moves to come or right after the last one: until then PENDING keeps it, and that step executes exactly
this word and leaves DONE = 1 and BUSY = 0. Whatever the moves to come, resets among them, BUSY is 0 one step after the last of
them. That the engine moves when no move is left is the model's reading of weak fairness (log 3). -/
def Obligations.CommandInFlightCompletes : Prop :=
  (∀ (s : State) (c : Word), s.pending = some c → (∀ m ∈ s.turns, m.isReset = false) →
    ∃ (k : Nat) (u v : State), k ≤ s.turns.length ∧ runSteps k s = .next u ∧ u.pending = some c ∧ u.nextTurn = .engine ∧
      (∀ (j : Nat) (w : State), j ≤ k → runSteps j s = .next w → w.pending = some c) ∧
      step u = .next v ∧ execute c u.advance = .next v ∧ v.done = true ∧ v.busy = false) ∧
  (∀ s : State, ∃ t : State, runSteps (s.turns.length + 1) s = .next t ∧ t.busy = false ∧ t.turns = [])

/-! ## The register window -/

/-- R53: an access that is not a full 32-bit aligned access is answered with a bus error, changes no state, records nothing and
returns no data. -/
def Obligations.RefusedAccessOnlyAnswersBusError : Prop :=
  ∀ (s : State) (a : BusAccess), s.nextTurn = .host a →
    (a.addr.extractLsb' 0 2 ≠ 0#2 ∨ (a.write = true ∧ a.wstrb ≠ 0xF#4) ∨ a.size ≠ 2#2) →
    step s = .next { s with turns := s.restTurns, responses := s.responses ++ [.busError] }

/-- R60: what a host read returns, at every offset, field by field for STATUS (R32), CTRL (R31) and CONFIG (R34); the read
changes nothing else. -/
def Obligations.HostReadReturnsRegister : Prop :=
  ∀ (s : State) (a : BusAccess), s.nextTurn = .host a → a.legal = true → a.write = false →
    ∃ v : Word, step s = .next { s with turns := s.restTurns, responses := s.responses ++ [.data v] } ∧
      (a.addr = 0x00#8 → v = 0x42464531#32) ∧
      (a.addr = 0x04#8 → v.extractLsb' 0 8 = BitVec.ofNat 8 s.cfg.nslot ∧
        v.extractLsb' 8 8 = BitVec.ofNat 8 s.cfg.log2MaxWords ∧
        v.extractLsb' 16 8 = BitVec.ofNat 8 s.cfg.argqDepth ∧ v.extractLsb' 24 8 = 0x01#8) ∧
      (a.addr = 0x08#8 → v.getLsbD 0 = s.ieDone ∧ v.getLsbD 1 = s.ieErr ∧ v.extractLsb' 2 30 = 0#30) ∧
      (a.addr = 0x0C#8 → v.getLsbD 0 = s.pending.isSome ∧ v.getLsbD 1 = s.done ∧ v.getLsbD 2 = s.err ∧
        v.extractLsb' 3 5 = 0#5 ∧ v.extractLsb' 8 8 = BitVec.ofNat 8 s.argq.length ∧ v.extractLsb' 16 16 = 0#16) ∧
      (a.addr = 0x10#8 → v = 0#32) ∧ (a.addr = 0x14#8 → v = 0#32) ∧
      (a.addr = 0x18#8 → v = s.result) ∧ (a.addr = 0x1C#8 → v = s.errCode) ∧ (a.addr = 0x20#8 → v = s.errInfo) ∧
      (0x24 ≤ a.addr.toNat → v = 0#32)

/-- A write to an offset other than CTRL, STATUS, CMD and ARG is performed and changes nothing (R30, R40, R59). -/
def Obligations.WriteToOtherOffsetsChangesNothing : Prop :=
  ∀ (s : State) (a : BusAccess), s.nextTurn = .host a → a.legal = true → a.write = true →
    a.addr ≠ 0x08#8 → a.addr ≠ 0x0C#8 → a.addr ≠ 0x10#8 → a.addr ≠ 0x14#8 →
    step s = .next { s with turns := s.restTurns, responses := s.responses ++ [.written] }

/-- A CMD write (R29, R59): discarded while ERR = 1 (R206); dropped with BUSY_WRITE, ERRINFO 0x10, while BUSY = 1 (R205);
otherwise accepted into PENDING, which sets BUSY. -/
def Obligations.CmdWriteIsAcceptedDroppedOrDiscarded : Prop :=
  ∀ (s : State) (c : Word), s.nextTurn = writeTurn 0x10#8 c →
    (s.err = true → step s = .next { s with turns := s.restTurns, responses := s.responses ++ [.written] }) ∧
    (s.err = false → s.pending ≠ none → step s =
      .next { s with turns := s.restTurns, responses := s.responses ++ [.written], err := true, errCode := 0x0000000C#32,
                     errInfo := 0x00000010#32 }) ∧
    (s.err = false → s.pending = none → step s =
      .next { s with turns := s.restTurns, responses := s.responses ++ [.written], pending := some c })

/-- R36: an ARG write while BUSY = 0 appends its value when there is room and raises ARG_OVERFLOW when there is none; while
BUSY = 1 it raises BUSY_WRITE; a dropped value leaves ARGQ as it was; it is accepted whether ERR is 0 or 1; ARG reads 0. -/
def Obligations.ArgWriteAppendsOrRaises : Prop :=
  (∀ (s : State) (v : Word), s.nextTurn = writeTurn 0x14#8 v →
    (s.pending = none → s.argq.length < s.cfg.argqDepth → step s =
      .next { s with turns := s.restTurns, responses := s.responses ++ [.written], argq := s.argq ++ [v] }) ∧
    (s.pending = none → s.cfg.argqDepth ≤ s.argq.length → step s =
      .next { s with turns := s.restTurns, responses := s.responses ++ [.written], err := true,
                     errCode := if s.err then s.errCode else 0x0000000B#32, errInfo := if s.err then s.errInfo else v }) ∧
    (s.pending ≠ none → step s =
      .next { s with turns := s.restTurns, responses := s.responses ++ [.written], err := true,
                     errCode := if s.err then s.errCode else 0x0000000C#32,
                     errInfo := if s.err then s.errInfo else 0x00000014#32 })) ∧
  (∀ s : State, s.nextTurn = readTurn 0x14#8 →
    step s = .next { s with turns := s.restTurns, responses := s.responses ++ [.data 0#32] })

/-- A CTRL write without SOFT_RESET (R31): with ARGQ_CLR while BUSY = 1 the whole write is discarded and BUSY_WRITE recorded;
otherwise bits 0 and 1 become the enables, ARGQ_CLR empties ARGQ and nothing else changes. -/
def Obligations.CtrlWriteSetsEnablesAndClearsQueue : Prop :=
  ∀ (s : State) (v : Word), s.nextTurn = writeTurn 0x08#8 v → v.getLsbD 9 = false →
    (v.getLsbD 8 = true → s.pending ≠ none → step s =
      .next { s with turns := s.restTurns, responses := s.responses ++ [.written], err := true,
                     errCode := if s.err then s.errCode else 0x0000000C#32,
                     errInfo := if s.err then s.errInfo else 0x00000008#32 }) ∧
    (v.getLsbD 8 = true → s.pending = none → step s =
      .next { s with turns := s.restTurns, responses := s.responses ++ [.written], ieDone := v.getLsbD 0,
                     ieErr := v.getLsbD 1, argq := [] }) ∧
    (v.getLsbD 8 = false → step s =
      .next { s with turns := s.restTurns, responses := s.responses ++ [.written], ieDone := v.getLsbD 0,
                     ieErr := v.getLsbD 1 })

/-- A STATUS write (R32): bit 1 clears DONE, bit 2 clears ERR, the other bits are ignored, whatever BUSY is; ERRCODE and ERRINFO
are kept (R208). -/
def Obligations.StatusWriteClearsDoneAndErr : Prop :=
  ∀ (s : State) (v : Word), s.nextTurn = writeTurn 0x0C#8 v → step s =
    .next { s with turns := s.restTurns, responses := s.responses ++ [.written], done := s.done && !v.getLsbD 1,
                   err := s.err && !v.getLsbD 2 }

/-! ## Reset -/

/-- R43: every piece of state after reset, for every choice of the parameters: no slot holds a filter, ARGQ is empty, no command
is in flight, and every register reads its reset value. -/
def Obligations.ResetStateHoldsResetValues : Prop :=
  ∀ c : Config,
    (State.resetWith c).slots.length = c.nslot ∧ (∀ n, (State.resetWith c).slotAt n = none) ∧
    (State.resetWith c).argq = [] ∧ (State.resetWith c).pending = none ∧ (State.resetWith c).busy = false ∧
    (State.resetWith c).done = false ∧ (State.resetWith c).err = false ∧
    (State.resetWith c).ieDone = false ∧ (State.resetWith c).ieErr = false ∧ (State.resetWith c).irq = false ∧
    (State.resetWith c).busRead 0x00#8 = 0x42464531#32 ∧ (State.resetWith c).busRead 0x04#8 = configWord c ∧
    (State.resetWith c).busRead 0x08#8 = 0#32 ∧ (State.resetWith c).busRead 0x0C#8 = 0#32 ∧
    (State.resetWith c).busRead 0x18#8 = 0#32 ∧ (State.resetWith c).busRead 0x1C#8 = 0#32 ∧
    (State.resetWith c).busRead 0x20#8 = 0#32

/-- Hardware reset from any state gives the reset state (R240, R241): a command in flight is abandoned; the parameters stay, and
so do the host's planned moves and the answers it has had (the model's own fields, log 3, log 9). -/
def Obligations.HardwareResetGivesResetState : Prop :=
  ∀ s : State, s.nextTurn = .reset → step s =
    .next { State.resetWith s.cfg with turns := s.restTurns, responses := s.responses }

/-- R242: a CTRL write with bit 9 = 1 performs the effect of reset, whatever the other bits, BUSY and ERR are, and the write
completes normally; nothing else takes a command out of flight but its completion and hardware reset. -/
def Obligations.SoftResetGivesResetState : Prop :=
  (∀ (s : State) (v : Word), s.nextTurn = writeTurn 0x08#8 v → v.getLsbD 9 = true → step s = .next
    { State.resetWith s.cfg with turns := s.restTurns, responses := s.responses ++ [.written] }) ∧
  (∀ s t : State, s.pending ≠ none → step s = .next t → t.pending ≠ s.pending → t.pending = none ∧
    ((s.nextTurn = .engine ∧ t.done = true) ∨ s.nextTurn = .reset ∨
      ∃ a, s.nextTurn = .host a ∧ a.legal = true ∧ a.write = true ∧ a.addr = 0x08#8 ∧ a.wdata.getLsbD 9 = true))

/-! ## Errors and the interrupt -/

/-- A command reports the first check that fails, in the order of R204 and with the ERRINFO of R201, and does nothing else
(R200, R203): no slot, operand or RESULT changes; the first error is kept while ERR = 1 (R209). -/
def Obligations.FirstFailingCheckIsReported : Prop :=
  ∀ (i : Instr) (s : State) (e : CmdError), firstError i s = some e →
    exec i s = .next (s.failed e.code.byte i.opcode.opc e.info)

/-- A command none of whose checks fails completes (R29): DONE is 1, BUSY is 0, and the error record, ERR, the enables, the
parameters, the moves to come and the answers are as before. -/
def Obligations.CommandWithoutErrorCompletes : Prop :=
  ∀ (i : Instr) (s : State), firstError i s = none →
    ∃ t, exec i s = .next t ∧
      t = { s with slots := t.slots, argq := t.argq, result := t.result, done := true, pending := none }

/-- ERRCODE and ERRINFO change only when an error is recorded while ERR = 0, or at a reset (R38, R200, R209). -/
def Obligations.ErrorRecordChangesOnlyAtFirstError : Prop :=
  ∀ s t : State, step s = .next t → s.nextTurn.isReset = false →
    (t.errCode ≠ s.errCode ∨ t.errInfo ≠ s.errInfo) → s.err = false ∧ t.err = true

/-- DONE and ERR change only by the causes of R27 and R210. Resets apart, each is cleared only by a performed write of 1 to its STATUS
bit; DONE is set only by the completion of a command; ERR is set only by a recorded error: the completion of a word that does
not decode or of a command one of whose checks fails, or a performed write that raises BUSY_WRITE (CMD, ARG, or CTRL with
ARGQ_CLR, while BUSY = 1) or ARG_OVERFLOW (ARG while ARGQ is full). -/
def Obligations.StatusFlagsChangeOnlyAsListed : Prop :=
  ∀ s t : State, step s = .next t → s.nextTurn.isReset = false →
    (s.done = true → t.done = false → ∃ a, s.nextTurn = .host a ∧ a.legal = true ∧ a.write = true ∧ a.addr = 0x0C#8 ∧
      a.wdata.getLsbD 1 = true) ∧
    (s.err = true → t.err = false → ∃ a, s.nextTurn = .host a ∧ a.legal = true ∧ a.write = true ∧ a.addr = 0x0C#8 ∧
      a.wdata.getLsbD 2 = true) ∧
    (s.done = false → t.done = true → s.nextTurn = .engine ∧ s.busy = true ∧ t.busy = false) ∧
    (s.err = false → t.err = true →
      (s.nextTurn = .engine ∧ ∃ c, s.pending = some c ∧
        ((∀ i, decode c ≠ .ok i) ∨ ∃ i, decode c = .ok i ∧ firstError i s ≠ none)) ∨
      (∃ a, s.nextTurn = .host a ∧ a.legal = true ∧ a.write = true ∧
        ((a.addr = 0x10#8 ∧ s.busy = true) ∨
          (a.addr = 0x14#8 ∧ (s.busy = true ∨ s.cfg.argqDepth ≤ s.argq.length)) ∨
          (a.addr = 0x08#8 ∧ a.wdata.getLsbD 9 = false ∧ a.wdata.getLsbD 8 = true ∧ s.busy = true))))

/-- RESULT changes only at the completion of a command without error, or at a reset (R26, R248). -/
def Obligations.ResultChangesOnlyAtErrorFreeCompletion : Prop :=
  ∀ s t : State, step s = .next t → s.nextTurn.isReset = false → t.result ≠ s.result →
    ∃ i, s.completing = some i ∧ firstError i s = none ∧ t.done = true ∧ t.busy = false

/-- R211: irq is the level `(DONE & IE_DONE) | (ERR & IE_ERR)` of the bits that STATUS and CTRL read; it is 0 after reset, and a
source no longer drives it once its pending bit is cleared or its enable is written 0. -/
def Obligations.IrqIsTheEnabledPendingLevel : Prop :=
  (∀ s : State, s.irq = (((s.busRead 0x0C#8).getLsbD 1 && (s.busRead 0x08#8).getLsbD 0) ||
    ((s.busRead 0x0C#8).getLsbD 2 && (s.busRead 0x08#8).getLsbD 1))) ∧
  (∀ c : Config, (State.resetWith c).irq = false) ∧
  (∀ (s : State) (v : Word), s.nextTurn = writeTurn 0x0C#8 v → ∃ t, step s = .next t ∧
    (v.getLsbD 1 = true → t.irq = (t.err && t.ieErr)) ∧ (v.getLsbD 2 = true → t.irq = (t.done && t.ieDone))) ∧
  (∀ (s : State) (v : Word), s.nextTurn = writeTurn 0x08#8 v → (v.getLsbD 8 = false ∨ s.pending = none) →
    ∃ t, step s = .next t ∧
      (v.getLsbD 0 = false → t.irq = (t.err && t.ieErr)) ∧ (v.getLsbD 1 = false → t.irq = (t.done && t.ieDone)))

/-- What a host may do while BUSY = 1 (R246): an access of the allowed kinds leaves the command in flight, the slots, ARGQ,
RESULT and the error record as they are and sets neither DONE nor ERR; a CMD or ARG write, or a CTRL write with ARGQ_CLR and
without SOFT_RESET, is dropped and, while ERR = 0, raises BUSY_WRITE with its offset; a CMD write while ERR = 1 is no error
(R206). -/
def Obligations.HostAccessWhileBusy : Prop :=
  ∀ (s : State) (a : BusAccess), s.nextTurn = .host a → s.pending ≠ none →
    (a.allowedWhileBusy = true → ∃ t, step s = .next t ∧ t.pending = s.pending ∧ t.slots = s.slots ∧ t.argq = s.argq ∧
      t.result = s.result ∧ t.errCode = s.errCode ∧ t.errInfo = s.errInfo ∧ (t.done = true → s.done = true) ∧
      (t.err = true → s.err = true)) ∧
    (a.allowedWhileBusy = false → ¬ (a.addr = 0x08#8 ∧ a.wdata.getLsbD 9 = true) → step s =
      .next { s with turns := s.restTurns, responses := s.responses ++ [.written], err := true,
                     errCode := if s.err then s.errCode else 0x0000000C#32,
                     errInfo := if s.err then s.errInfo else a.addr.setWidth 32 })

/-! ## What changes and what does not -/

/-- A slot changes only at a reset or at the completion without error of a command that R22 lets write it, and its filter changes
size only when a command installs a new one (R22). -/
def Obligations.SlotsChangeOnlyByTheirCommands : Prop :=
  ∀ s t : State, step s = .next t → s.nextTurn.isReset = false → ∀ d : Nat,
    (t.slotAt d ≠ s.slotAt d → ∃ i, s.completing = some i ∧ firstError i s = none ∧ writesSlot d i = true) ∧
    (∀ f g, s.slotAt d = some f → t.slotAt d = some g → g.size ≠ f.size →
      ∃ i, s.completing = some i ∧ endsFilter d i = true)

/-- Frame of the commands that write no slot (READW, GETSIZE, CONTAINS, SUBSET, HASH, DENSITY): slot storage, the parameters, the
enables, the moves to come and the answers are unchanged, ARGQ too except that CONTAINS consumes its operands, and the error
record and ERR unless a check fails. -/
def Obligations.ReadingCommandsFrame : Prop :=
  ∀ (i : Instr) (s t : State), (∀ d, writesSlot d i = false) → exec i s = .next t →
    t.slots = s.slots ∧ t.cfg = s.cfg ∧ t.ieDone = s.ieDone ∧ t.ieErr = s.ieErr ∧ t.turns = s.turns ∧
    t.responses = s.responses ∧
    (t.argq = s.argq ∨ ∃ a n, i = .contains a n ∧ t.argq = s.argq.drop n) ∧
    (firstError i s = none → t.err = s.err ∧ t.errCode = s.errCode ∧ t.errInfo = s.errInfo)

/-- Frame of the commands that install or release a filter (CONSTRUCT, RELEASE, UNION, INTERSECT, REDUCE): every word of every
other slot, ARGQ, the parameters, the enables, the moves to come and the answers are unchanged, and the error record and ERR
unless a check fails. -/
def Obligations.InstallingCommandsFrame : Prop :=
  ∀ (i : Instr) (d : Nat) (s t : State), endsFilter d i = true → exec i s = .next t →
    (∀ k j, k ≠ d → t.slots.word k j = s.slots.word k j) ∧ (∀ k, k ≠ d → t.slotAt k = s.slotAt k) ∧
    t.argq = s.argq ∧ t.cfg = s.cfg ∧ t.ieDone = s.ieDone ∧ t.ieErr = s.ieErr ∧ t.turns = s.turns ∧
    t.responses = s.responses ∧
    (firstError i s = none → t.err = s.err ∧ t.errCode = s.errCode ∧ t.errInfo = s.errInfo)

/-- Frame of LOADW and ADD: every word is unchanged except word `i` of slot `d` (LOADW) or the words of slot `d` that one of the
consumed hash values selects (ADD); no slot becomes valid or invalid; ARGQ loses nothing but the consumed entries; the
parameters, the enables, the moves to come and the answers are unchanged, and the error record and ERR unless a check
fails. -/
def Obligations.WordWritingCommandsFrame : Prop :=
  ∀ (i : Instr) (d n : Nat) (s t : State), (i = .loadw d n ∨ i = .add d n) → exec i s = .next t →
    (∀ k j, (k ≠ d ∨ (i = .loadw d n ∧ j ≠ n) ∨
        (i = .add d n ∧ ∀ h ∈ s.argq.take n, ∀ f, s.slotAt d = some f → j ≠ wordIndex h f.size)) →
      t.slots.word k j = s.slots.word k j) ∧
    (∀ k, (t.slotAt k).isSome = (s.slotAt k).isSome) ∧
    (t.argq = s.argq ∨ (i = .loadw d n ∧ t.argq = s.argq.tail) ∨ (i = .add d n ∧ t.argq = s.argq.drop n)) ∧
    t.cfg = s.cfg ∧ t.ieDone = s.ieDone ∧ t.ieErr = s.ieErr ∧ t.turns = s.turns ∧ t.responses = s.responses ∧
    (firstError i s = none → t.err = s.err ∧ t.errCode = s.errCode ∧ t.errInfo = s.errInfo)

/-! ## The invariant -/

/-- The reset state of every legal block meets the invariant (R43). That `State.reset` is the reset state at the reference
parameters of R6, which CONFIG then shows, with no move planned and no answer given, is the model's choice (log 1, log 3,
log 9). -/
def Obligations.ResetMeetsStateInvariant : Prop :=
  (∀ c : Config, c.legal = true → (State.resetWith c).wf = true) ∧ State.reset = State.resetWith Config.reference ∧
  Config.reference.legal = true ∧ State.reset.busRead 0x04#8 = 0x01100A08#32 ∧ State.reset.turns = [] ∧
  State.reset.responses = []

/-- Every step keeps the invariant: every valid slot holds a power-of-two number of words up to MAX_WORDS (R21), there are NSLOT
slots (R20), ARGQ never holds more than ARGQ_DEPTH entries (R24), the error record is well formed (R38, R201). -/
def Obligations.StepKeepsStateInvariant : Prop :=
  ∀ s t : State, s.wf = true → step s = .next t → t.wf = true

/-- The parameters of a block never change (R34, R42: constants of a block; that they stand in State as `cfg` is the model's choice,
log 1), and every step takes exactly its own move from the moves to come (`turns` is the model's own field, log 3; no rule of the
spec speaks of it). -/
def Obligations.StepKeepsParameters : Prop :=
  ∀ s t : State, step s = .next t → t.cfg = s.cfg ∧ t.turns = s.restTurns

/-! ## What each command does -/

/-- CONSTRUCT (R106): slot `d` holds a filter of `n` zero words, RESULT is `d`, every other slot and everything else but DONE and
BUSY is as before. -/
def Obligations.ConstructMakesZeroFilter : Prop :=
  ∀ (s : State) (d n : Nat), s.wf = true → d < s.cfg.nslot → (∃ k, n = 2 ^ k) → n ≤ s.cfg.maxWords →
    ∃ t f, exec (.construct d n) s = .next t ∧ t.slotAt d = some f ∧ f.size = n ∧ (∀ j, j < n → f.words[j]? = some 0#32) ∧
      (∀ k, k ≠ d → t.slotAt k = s.slotAt k) ∧
      t = { s with slots := t.slots, result := BitVec.ofNat 32 d, done := true, pending := none }

/-- RELEASE (R107): slot `d` holds no filter, whether it held one or not; RESULT is `d`. -/
def Obligations.ReleaseMakesSlotInvalid : Prop :=
  ∀ (s : State) (d : Nat), s.wf = true → d < s.cfg.nslot →
    ∃ t, exec (.release d) s = .next t ∧ t.slotAt d = none ∧ (∀ k, k ≠ d → t.slotAt k = s.slotAt k) ∧
      t = { s with slots := t.slots, result := BitVec.ofNat 32 d, done := true, pending := none }

/-- LOADW (R108): word `i` of slot `d` is the oldest operand, which is consumed; every other word is as before; RESULT is `d`. -/
def Obligations.LoadwWritesOneWord : Prop :=
  ∀ (s : State) (d i : Nat) (f : BloomFilter) (v : Word) (q : List Word), s.wf = true → d < s.cfg.nslot →
    s.slotAt d = some f → i < f.size → s.argq = v :: q →
    ∃ t g, exec (.loadw d i) s = .next t ∧ t.slotAt d = some g ∧ g.size = f.size ∧ g.words[i]? = some v ∧
      (∀ j, j ≠ i → g.words[j]? = f.words[j]?) ∧ (∀ k, k ≠ d → t.slotAt k = s.slotAt k) ∧
      t = { s with slots := t.slots, argq := q, result := BitVec.ofNat 32 d, done := true, pending := none }

/-- READW (R109): RESULT is word `i` of slot `a`; nothing else changes but DONE and BUSY. -/
def Obligations.ReadwReturnsTheWord : Prop :=
  ∀ (s : State) (a i : Nat) (f : BloomFilter) (v : Word), a < s.cfg.nslot → s.slotAt a = some f → f.words[i]? = some v →
    exec (.readw a i) s = .next { s with result := v, done := true, pending := none }

/-- GETSIZE (R110): RESULT is the word count of slot `a`, a power of two from 1 to MAX_WORDS. -/
def Obligations.GetsizeReturnsTheWordCount : Prop :=
  ∀ (s : State) (a : Nat) (f : BloomFilter), s.wf = true → a < s.cfg.nslot → s.slotAt a = some f →
    ∃ t, exec (.getsize a) s = .next t ∧ t.result.toNat = f.words.length ∧
      (∃ k, t.result.toNat = 2 ^ k) ∧ t.result.toNat ≤ s.cfg.maxWords ∧
      t = { s with result := t.result, done := true, pending := none }

/-- ADD (R111, R101, R102, R104): bit `g` of the filter is set afterwards exactly when it was set or one of the `n` oldest operands
is `g` modulo the number of bits; those operands are consumed; RESULT is `d`. -/
def Obligations.AddSetsTheBitsOfItsOperands : Prop :=
  ∀ (s : State) (d n : Nat) (f : BloomFilter), s.wf = true → d < s.cfg.nslot → s.slotAt d = some f → n ≤ s.argq.length →
    ∃ t g, exec (.add d n) s = .next t ∧ t.slotAt d = some g ∧ g.size = f.size ∧
      (∀ b, b < 32 * f.size → g.bit b = (f.bit b || (s.argq.take n).any (fun h => h.toNat % (32 * f.size) == b))) ∧
      (∀ k, k ≠ d → t.slotAt k = s.slotAt k) ∧
      t = { s with slots := t.slots, argq := s.argq.drop n, result := BitVec.ofNat 32 d, done := true, pending := none }

/-- CONTAINS (R112, R103, R104): RESULT is 1 exactly when the bit of every one of the `n` oldest operands is set, else 0; all `n`
are consumed; no slot changes. -/
def Obligations.ContainsTestsTheBitsOfItsOperands : Prop :=
  ∀ (s : State) (a n : Nat) (f : BloomFilter), s.wf = true → a < s.cfg.nslot → s.slotAt a = some f → n ≤ s.argq.length →
    exec (.contains a n) s = .next { s with
      argq := s.argq.drop n
      result := if (s.argq.take n).all (fun h => f.bit (h.toNat % (32 * f.size))) then 1#32 else 0#32
      done := true
      pending := none }

/-- UNION (R141): slot `d` holds the word-wise OR of the old contents of `a` and `b`, whichever of the three are the same slot;
RESULT is `d`. -/
def Obligations.UnionIsTheWordwiseOr : Prop :=
  ∀ (s : State) (d a b : Nat) (fa fb : BloomFilter), s.wf = true → d < s.cfg.nslot → a < s.cfg.nslot → b < s.cfg.nslot →
    s.slotAt a = some fa → s.slotAt b = some fb → fa.size = fb.size →
    ∃ t g, exec (.union d a b) s = .next t ∧ t.slotAt d = some g ∧ g.size = fa.size ∧
      (∀ (i : Nat) (x y : Word), fa.words[i]? = some x → fb.words[i]? = some y → g.words[i]? = some (x ||| y)) ∧
      (∀ k, k ≠ d → t.slotAt k = s.slotAt k) ∧
      t = { s with slots := t.slots, result := BitVec.ofNat 32 d, done := true, pending := none }

/-- INTERSECT (R142): slot `d` holds the word-wise AND of the old contents of `a` and `b`, whichever of the three are the same
slot; RESULT is `d`. -/
def Obligations.IntersectIsTheWordwiseAnd : Prop :=
  ∀ (s : State) (d a b : Nat) (fa fb : BloomFilter), s.wf = true → d < s.cfg.nslot → a < s.cfg.nslot → b < s.cfg.nslot →
    s.slotAt a = some fa → s.slotAt b = some fb → fa.size = fb.size →
    ∃ t g, exec (.intersect d a b) s = .next t ∧ t.slotAt d = some g ∧ g.size = fa.size ∧
      (∀ (i : Nat) (x y : Word), fa.words[i]? = some x → fb.words[i]? = some y → g.words[i]? = some (x &&& y)) ∧
      (∀ k, k ≠ d → t.slotAt k = s.slotAt k) ∧
      t = { s with slots := t.slots, result := BitVec.ofNat 32 d, done := true, pending := none }

/-- SUBSET (R143): RESULT is 1 when every bit set in `a` is set in `b`, else 0; nothing else changes but DONE and BUSY. -/
def Obligations.SubsetComparesEveryBit : Prop :=
  ∀ (s : State) (a b : Nat) (fa fb : BloomFilter), a < s.cfg.nslot → b < s.cfg.nslot →
    s.slotAt a = some fa → s.slotAt b = some fb → fa.size = fb.size →
    ∃ t, exec (.subset a b) s = .next t ∧
      ((t.result = 1#32 ∧ ∀ g, g < 32 * fa.size → fa.bit g = true → fb.bit g = true) ∨
        (t.result = 0#32 ∧ ∃ g, g < 32 * fa.size ∧ fa.bit g = true ∧ fb.bit g = false)) ∧
      t = { s with result := t.result, done := true, pending := none }

/-- REDUCE (R160, R161): slot `d` holds `m` words, bit `b` of word `j` set exactly when it is set in some word of slot `a` whose
index is `j` modulo `m`, also when `d` is `a`; RESULT is `d`. -/
def Obligations.ReduceFoldsTheWords : Prop :=
  ∀ (s : State) (d a m : Nat) (f : BloomFilter), s.wf = true → d < s.cfg.nslot → a < s.cfg.nslot → s.slotAt a = some f →
    (∃ k, m = 2 ^ k) → m ≤ f.size →
    ∃ t g, exec (.reduce d a m) s = .next t ∧ t.slotAt d = some g ∧ g.size = m ∧
      (∀ j b, j < m → ((g.word j).getLsbD b = true ↔ ∃ i, i < f.size ∧ i % m = j ∧ (f.word i).getLsbD b = true)) ∧
      (∀ k, k ≠ d → t.slotAt k = s.slotAt k) ∧
      t = { s with slots := t.slots, result := BitVec.ofNat 32 d, done := true, pending := none }

/-- HASH (R180, R181): bit `b` of RESULT is the parity of the number of words of slot `a` in which bit `b` is set. -/
def Obligations.HashIsTheParityOfEachBit : Prop :=
  ∀ (s : State) (a : Nat) (f : BloomFilter), a < s.cfg.nslot → s.slotAt a = some f →
    ∃ t, exec (.hash a) s = .next t ∧
      (∀ b, t.result.getLsbD b = decide (f.words.countP (fun w => w.getLsbD b) % 2 = 1)) ∧
      t = { s with result := t.result, done := true, pending := none }

/-- DENSITY (R182, R183): RESULT is the number of set bits of slot `a`, exactly, at most `32 * size`. -/
def Obligations.DensityCountsTheSetBits : Prop :=
  ∀ (s : State) (a : Nat) (f : BloomFilter), s.wf = true → a < s.cfg.nslot → s.slotAt a = some f →
    ∃ t, exec (.density a) s = .next t ∧ t.result.toNat = (List.range (32 * f.size)).countP f.bit ∧
      t.result.toNat ≤ 32 * f.size ∧ t = { s with result := t.result, done := true, pending := none }

/-! ## Laws of the commands -/

/-- R104: the bit a hash value selects is bit number `h mod (32 * size)`, for every hash value and every power-of-two size, with
the rule's own example. -/
def Obligations.HashValueSelectsBitModuloTotalBits : Prop :=
  (∀ (h : Word) (n : Nat), (∃ k, n = 2 ^ k) → 32 * wordIndex h n + bitIndex h = h.toNat % (32 * n)) ∧
  (∀ (f : BloomFilter) (h : Word), (∃ k, f.size = 2 ^ k) → f.getBit h = f.bit (h.toNat % (32 * f.size))) ∧
  (wordIndex 0x12345678#32 8 = 3 ∧ bitIndex 0x12345678#32 = 24 ∧ 120 = 0x12345678 % 256)

/-- No false negatives (R113): after an ADD that consumed the hash value `h`, whatever steps the machine takes, none of which
resets it, ends the filter of slot `d` or clears the bit by a LOADW, a CONTAINS of `h` on slot `d` gives RESULT 1. -/
def Obligations.NoFalseNegatives : Prop :=
  ∀ (s : State) (d n : Nat) (f : BloomFilter) (h : Word), s.wf = true → d < s.cfg.nslot → s.slotAt d = some f →
    n ≤ s.argq.length → h ∈ s.argq.take n →
    ∃ s₁, exec (.add d n) s = .next s₁ ∧
      ∀ (k : Nat) (t : State), runSteps k s₁ = .next t →
        (∀ (j : Nat) (u : State), j < k → runSteps j s₁ = .next u →
          u.losesBit d (h.toNat % (32 * f.size)) = false) →
        ∃ r, exec (.contains d 1) { t with argq := h :: t.argq } = .next r ∧ r.result = 1#32

/-- R114 on a filter of a legal size: the order and the grouping of the hash values do not matter, adding a value again changes
nothing, and no bit is cleared. -/
def Obligations.AddIsOrderFreeIdempotentAndMonotone : Prop :=
  ∀ (f : BloomFilter) (hs ks : List Word), isPow2 f.size = true → f.size ≤ 32768 →
    (hs.Perm ks → f.setBits hs = f.setBits ks) ∧ (f.setBits hs).setBits ks = f.setBits (hs ++ ks) ∧
    (f.setBits hs).setBits hs = f.setBits hs ∧ (∀ b, f.bit b = true → (f.setBits hs).bit b = true) ∧
    density f.words ≤ density (f.setBits hs).words ∧ density (f.setBits hs).words ≤ density f.words + hs.length

/-- Union correctness (R144 item 1): if CONTAINS gives 1 on slot `a` or on slot `b` for the `n` oldest operands, then after
UNION the same operands give 1 on the destination. -/
def Obligations.UnionContainsWhatEitherContains : Prop :=
  ∀ (s : State) (d a b n : Nat) (fa fb : BloomFilter), s.wf = true → d < s.cfg.nslot → a < s.cfg.nslot →
    b < s.cfg.nslot → s.slotAt a = some fa → s.slotAt b = some fb → fa.size = fb.size → n ≤ s.argq.length →
    (∃ r, (exec (.contains a n) s = .next r ∨ exec (.contains b n) s = .next r) ∧ r.result = 1#32) →
    ∃ t u, exec (.union d a b) s = .next t ∧ exec (.contains d n) t = .next u ∧ u.result = 1#32

/-- Intersect correctness (R144 item 2): after INTERSECT into a third slot, SUBSET of the destination against either operand
gives 1. -/
def Obligations.IntersectionIsSubsetOfBoth : Prop :=
  ∀ (s : State) (d a b : Nat) (fa fb : BloomFilter), s.wf = true → d < s.cfg.nslot → a < s.cfg.nslot →
    b < s.cfg.nslot → d ≠ a → d ≠ b → s.slotAt a = some fa → s.slotAt b = some fb → fa.size = fb.size →
    ∃ t u v, exec (.intersect d a b) s = .next t ∧ exec (.subset d a) t = .next u ∧ u.result = 1#32 ∧
      exec (.subset d b) t = .next v ∧ v.result = 1#32

/-- The subset test is a partial order on the filters of one size, and agrees with intersection and union (R144 items 3 and 4). -/
def Obligations.SubsetIsAPartialOrder : Prop :=
  ∀ fa fb fc : BloomFilter, fa.size = fb.size → fb.size = fc.size →
    fa.subset fa = true ∧ (fa.subset fb = true → fb.subset fa = true → fa = fb) ∧
    (fa.subset fb = true → fb.subset fc = true → fa.subset fc = true) ∧
    (fa.subset fb = true ↔ fa.inter fb = fa) ∧ (fa.subset fb = true ↔ fa.union fb = fb)

/-- Union and intersection of filters of one size are commutative, associative and idempotent (R144 item 5). -/
def Obligations.UnionAndIntersectionAreLatticeOperations : Prop :=
  ∀ fa fb fc : BloomFilter, fa.size = fb.size → fb.size = fc.size →
    fa.union fb = fb.union fa ∧ fa.inter fb = fb.inter fa ∧
    (fa.union fb).union fc = fa.union (fb.union fc) ∧ (fa.inter fb).inter fc = fa.inter (fb.inter fc) ∧
    fa.union fa = fa ∧ fa.inter fa = fa

/-- The summaries of filters of one size (R144 item 6, R185): density is monotone and modular over union and intersection, zero
only for a filter of zero words, and the hash of the union is that of both operands and their intersection, XORed. -/
def Obligations.SummariesOfUnionAndIntersection : Prop :=
  ∀ fa fb : BloomFilter, fa.size = fb.size →
    density (fa.union fb).words + density (fa.inter fb).words = density fa.words + density fb.words ∧
    xorFold (fa.union fb).words = xorFold fa.words ^^^ xorFold fb.words ^^^ xorFold (fa.inter fb).words ∧
    (fa.subset fb = true → density fa.words ≤ density fb.words) ∧
    (density fa.words = 0 ↔ ∀ w ∈ fa.words, w = 0#32) ∧ (density fa.words = 0 → xorFold fa.words = 0#32)

/-- From R162, with R106, R111 and R114, for sizes M <= N, powers of two: the word index at size M is the one at size N under the
mask of M. CONSTRUCT leaves a fresh filter, and each ADD adds its operands to the filter of its slot, so a filter built by
CONSTRUCT and ADDs is `gs.foldl setBits (zero N)` for the groups `gs` of its hash values. REDUCE of such a filter to M words
gives, in any destination, exactly the filter built at size M from any groups `ks` of the same multiset of hash values,
whatever the order and the grouping. Two slots that are fold-related stay so under ADDs of the same operands. Whatever set its
bits, the fold of a filter has every bit that a hash value of the filter selects. -/
def Obligations.FoldOfAddedFilterIsTheSmallFilter : Prop :=
  (∀ (h : Word) (n m : Nat), isPow2 n = true → isPow2 m = true → m ≤ n → n ≤ 32768 →
    wordIndex h m = wordIndex h n &&& (m - 1)) ∧
  (∀ n m : Nat, isPow2 n = true → isPow2 m = true → m ≤ n → (BloomFilter.zero n).fold m = BloomFilter.zero m) ∧
  (∀ (s : State) (d n : Nat), s.wf = true → d < s.cfg.nslot → isPow2 n = true → n ≤ s.cfg.maxWords →
    ∃ t, exec (.construct d n) s = .next t ∧ t.slotAt d = some (BloomFilter.zero n)) ∧
  (∀ (s : State) (d n : Nat) (f : BloomFilter), s.wf = true → d < s.cfg.nslot → s.slotAt d = some f → n ≤ s.argq.length →
    ∃ t, exec (.add d n) s = .next t ∧ t.slotAt d = some (f.setBits (s.argq.take n))) ∧
  (∀ (s : State) (x d n m : Nat) (gs ks : List (List Word)), s.wf = true → x < s.cfg.nslot → d < s.cfg.nslot →
    s.slotAt d = some (gs.foldl BloomFilter.setBits (BloomFilter.zero n)) → isPow2 m = true → m ≤ n →
    gs.flatten.Perm ks.flatten →
    ∃ t, exec (.reduce x d m) s = .next t ∧ t.slotAt x = some (ks.foldl BloomFilter.setBits (BloomFilter.zero m))) ∧
  (∀ (s : State) (d e n : Nat) (fd fe : BloomFilter), s.wf = true → d < s.cfg.nslot → e < s.cfg.nslot → d ≠ e →
    s.slotAt d = some fd → s.slotAt e = some fe → fe.size ≤ fd.size → fd.fold fe.size = fe → n ≤ s.argq.length →
    ∃ s₁ s₂ gd ge, exec (.add d n) s = .next s₁ ∧ exec (.add e n) { s₁ with argq := s.argq } = .next s₂ ∧
      s₂.slotAt d = some gd ∧ s₂.slotAt e = some ge ∧ gd.size = fd.size ∧ ge.size = fe.size ∧ gd.fold ge.size = ge ∧
      ∀ x, x < s.cfg.nslot → ∃ s₃, exec (.reduce x d ge.size) s₂ = .next s₃ ∧ s₃.slotAt x = some ge) ∧
  (∀ (f : BloomFilter) (m : Nat) (h : Word), isPow2 f.size = true → f.size ≤ 32768 → isPow2 m = true → m ≤ f.size →
    f.getBit h = true → (f.fold m).getBit h = true)

/-- The algebra of the fold (R163), for powers of two K <= M <= N and filters of size N: identity, composition, union, the
intersection inclusion with a case where it is strict, monotonicity, density, and word 0 of a fold from 16 words to 8. -/
def Obligations.FoldAlgebra : Prop :=
  (∀ (fa fb : BloomFilter) (m k : Nat), isPow2 fa.size = true → isPow2 m = true → isPow2 k = true → fb.size = fa.size →
    m ≤ fa.size → k ≤ m →
    fa.fold fa.size = fa ∧ (fa.fold m).fold k = fa.fold k ∧
    (fa.union fb).fold m = (fa.fold m).union (fb.fold m) ∧
    ((fa.inter fb).fold m).subset ((fa.fold m).inter (fb.fold m)) = true ∧
    (fa.subset fb = true → (fa.fold m).subset (fb.fold m) = true) ∧
    density (fa.fold m).words ≤ density fa.words) ∧
  (∃ (fa fb : BloomFilter) (m : Nat), isPow2 fa.size = true ∧ isPow2 m = true ∧ fb.size = fa.size ∧ m ≤ fa.size ∧
    (fa.inter fb).fold m ≠ (fa.fold m).inter (fb.fold m)) ∧
  (∀ f : BloomFilter, f.size = 16 → (f.fold 8).word 0 = f.word 0 ||| f.word 8)

/-- The parallel bit count of R184 gives the plain count of R182 for every word. -/
def Obligations.ParallelBitCountIsTheCount : Prop :=
  ∀ w : Word, popcountParallel w = popcount32 w
end

