-- ==== Sys2Proof/Laws/Assembler.lean ====
section
/-! SUPPORT. Laws/Assembler.lean: how an `add` is split over the operand queue, and the moves of a program one statement at a
time. -/

namespace Sys2Proof.Machine

/-- The pieces, one after the other, are the list: no operand of a split `add` is lost or moved (R80). -/
theorem chunks_flatten (k fuel : Nat) (ws : List Word) : (chunks k fuel ws).flatten = ws := by
  induction fuel generalizing ws with
  | zero => simp [chunks]
  | succ fuel ih =>
    unfold chunks
    split
    · simp
    · rw [List.flatten_cons, ih, List.take_append_drop]

/-- With a cut allowed for each entry, every piece fits a queue of `k` entries (R80, R24). -/
theorem length_le_of_mem_chunks {k fuel : Nat} {ws g : List Word} (hk : 1 ≤ k) (hf : ws.length ≤ fuel)
    (hg : g ∈ chunks k fuel ws) : g.length ≤ k := by
  induction fuel generalizing ws with
  | zero =>
    simp only [chunks, List.mem_singleton] at hg
    subst hg
    omega
  | succ fuel ih =>
    unfold chunks at hg
    split at hg
    · next h => rw [List.mem_singleton] at hg; exact hg ▸ h
    · rcases List.mem_cons.mp hg with rfl | hg
      · exact List.length_take_le _ _
      · exact ih (by rw [List.length_drop]; omega) hg

/-- There is always a piece: an `add` of no values still issues a command (R80, R111). -/
theorem chunks_ne_nil (k fuel : Nat) (ws : List Word) : chunks k fuel ws ≠ [] := by
  cases fuel with
  | zero => simp [chunks]
  | succ fuel =>
    unfold chunks
    split <;> simp

@[simp] theorem programMoves_nil (polls : List Nat) : programMoves polls [] = [] := by simp [programMoves]

@[simp] theorem programMoves_cons (polls : List Nat) (st : Stmt) (p : List Stmt) :
    programMoves polls (st :: p) = st.moves (polls.headD 0) ++ programMoves (st.pollsLeft polls) p := rfl

end Sys2Proof.Machine
end

