-- ==== Sys2Proof/Laws/Filter.lean ====
section
/-! SUPPORT. Laws/Filter.lean: sizes, words and bits of the filters the commands make. -/

namespace Sys2Proof.Machine

/-- R9's isPow2 says what its name says. -/
theorem isPow2_iff {n : Nat} : isPow2 n = true ↔ ∃ k, n = 2 ^ k := by
  unfold isPow2
  by_cases h : n = 0
  · subst h
    simp only [bne_self_eq_false, Bool.false_and, Bool.false_eq_true, false_iff]
    rintro ⟨k, hk⟩
    have := Nat.two_pow_pos k
    omega
  · simpa [h, Nat.isPowerOfTwo] using Nat.and_sub_one_eq_zero_iff_isPowerOfTwo h

theorem isPow2_pos {n : Nat} (h : isPow2 n = true) : 0 < n := by
  obtain ⟨k, rfl⟩ := isPow2_iff.mp h
  exact Nat.two_pow_pos k

/-- The mask of a power of two is the remainder (R160). -/
theorem and_mask_eq_mod {m : Nat} (h : isPow2 m = true) (i : Nat) : i &&& (m - 1) = i % m := by
  obtain ⟨k, rfl⟩ := isPow2_iff.mp h
  exact Nat.and_two_pow_sub_one_eq_mod i k

theorem bitIndex_eq (h : Word) : bitIndex h = h.toNat % 32 := by
  have := Nat.and_two_pow_sub_one_eq_mod h.toNat 5
  simpa [bitIndex] using this

theorem bitIndex_lt (h : Word) : bitIndex h < 32 := by
  rw [bitIndex_eq]; exact Nat.mod_lt _ (by decide)

theorem wordIndex_eq {h : Word} {n : Nat} (hp : isPow2 n = true) (hn : n ≤ 2 ^ 31) : wordIndex h n = h.toNat / 32 % n := by
  have h0 := isPow2_pos hp
  have hm : (BitVec.ofNat 32 n - 1#32).toNat = n - 1 := by
    rw [BitVec.toNat_sub]
    simp only [BitVec.toNat_ofNat]
    omega
  rw [wordIndex, BitVec.toNat_and, hm, and_mask_eq_mod hp, BitVec.toNat_ushiftRight, Nat.shiftRight_eq_div_pow]

theorem wordIndex_lt {h : Word} {n : Nat} (hp : isPow2 n = true) (hn : n ≤ 2 ^ 31) : wordIndex h n < n := by
  rw [wordIndex_eq hp hn]; exact Nat.mod_lt _ (isPow2_pos hp)

theorem maxWords_le {c : Config} (h : c.legal = true) : c.maxWords ≤ 32768 := by
  simp only [Config.legal, Bool.and_eq_true, decide_eq_true_eq] at h
  exact Nat.pow_le_pow_right (n := 2) (by decide) h.1.2.2

/-- The bit `1 << (h & 31)` (R102). -/
theorem getLsbD_bitMask (h : Word) (k : Nat) : (bitMask h).getLsbD k = decide (k = bitIndex h) := by
  have := bitIndex_lt h
  simp only [bitMask, BitVec.getLsbD_shiftLeft, BitVec.getLsbD_one]
  by_cases hk : k = bitIndex h
  · subst hk; simp [this]
  · have : k - bitIndex h = 0 → k < bitIndex h := by omega
    by_cases h1 : k < bitIndex h <;> simp_all

namespace BloomFilter

@[simp] theorem size_zero (n : Nat) : (zero n).size = n := by simp [zero, size]

@[simp] theorem size_setBit (f : BloomFilter) (h : Word) : (f.setBit h).size = f.size := by simp [setBit, size]

@[simp] theorem size_setBits (f : BloomFilter) (hs : List Word) : (f.setBits hs).size = f.size := by
  unfold setBits
  induction hs generalizing f with
  | nil => rfl
  | cons h t ih => simpa using ih (f.setBit h)

@[simp] theorem size_union (fa fb : BloomFilter) : (fa.union fb).size = min fa.size fb.size := by simp [union, size]

@[simp] theorem size_inter (fa fb : BloomFilter) : (fa.inter fb).size = min fa.size fb.size := by simp [inter, size]

theorem length_foldl_foldStep (m : Nat) (ps : List (Word × Nat)) (dst : List Word) :
    (ps.foldl (foldStep m) dst).length = dst.length := by
  induction ps generalizing dst with
  | nil => rfl
  | cons p t ih => simp [ih, foldStep]

@[simp] theorem size_fold (f : BloomFilter) (m : Nat) : (f.fold m).size = m := by
  simp [fold, size, foldWords, length_foldl_foldStep]

@[simp] theorem setBits_nil (f : BloomFilter) : f.setBits [] = f := rfl

@[simp] theorem setBits_cons (f : BloomFilter) (h : Word) (hs : List Word) :
    f.setBits (h :: hs) = (f.setBit h).setBits hs := rfl

/-- The grouping of ADDs does not matter (R114). -/
theorem setBits_append (f : BloomFilter) (hs ks : List Word) : f.setBits (hs ++ ks) = (f.setBits hs).setBits ks := by
  simp [setBits]

theorem word_zero (n i : Nat) : (zero n).word i = 0#32 := by
  simp only [word, zero, List.getD_eq_getElem?_getD, List.getElem?_replicate]
  split <;> rfl

theorem word_union {fa fb : BloomFilter} (hs : fa.size = fb.size) (i : Nat) :
    (fa.union fb).word i = fa.word i ||| fb.word i := by
  simp only [size] at hs
  simp only [word, union, List.getD_eq_getElem?_getD, List.getElem?_zipWith]
  by_cases h : i < fa.words.length
  · simp [h, hs ▸ h]
  · simp [List.getElem?_eq_none (Nat.le_of_not_lt h), List.getElem?_eq_none (hs ▸ Nat.le_of_not_lt h)]

theorem word_inter {fa fb : BloomFilter} (hs : fa.size = fb.size) (i : Nat) :
    (fa.inter fb).word i = fa.word i &&& fb.word i := by
  simp only [size] at hs
  simp only [word, inter, List.getD_eq_getElem?_getD, List.getElem?_zipWith]
  by_cases h : i < fa.words.length
  · simp [h, hs ▸ h]
  · simp [List.getElem?_eq_none (Nat.le_of_not_lt h), List.getElem?_eq_none (hs ▸ Nat.le_of_not_lt h)]

/-- A word inside a filter is the entry of its list. -/
theorem getElem?_words {f : BloomFilter} {i : Nat} (h : i < f.size) : f.words[i]? = some (f.word i) := by
  have h' : i < f.words.length := h
  simp [word, h']

/-- Two filters of one size with the same words are equal. -/
theorem ext_word {fa fb : BloomFilter} (hs : fa.size = fb.size) (h : ∀ i, i < fa.size → fa.word i = fb.word i) : fa = fb := by
  cases fa with | mk wa => cases fb with | mk wb =>
  simp only [mk.injEq]
  apply List.ext_getElem?
  intro i
  by_cases hi : i < wa.length
  · have h1 := getElem?_words (f := mk wa) (i := i) hi
    have h2 := getElem?_words (f := mk wb) (i := i) (hs ▸ hi)
    rw [show wa[i]? = _ from h1, show wb[i]? = _ from h2, h i hi]
  · have h1 : wa.length ≤ i := Nat.le_of_not_lt hi
    have h2 : wb.length ≤ i := by simp only [size] at hs; omega
    simp [h1, h2]

/-- The word that `SetBit` writes, and every other word (R102). -/
theorem word_setBit {f : BloomFilter} {h : Word} (hw : wordIndex h f.size < f.size) (i : Nat) :
    (f.setBit h).word i = if i = wordIndex h f.size then f.word i ||| bitMask h else f.word i := by
  simp only [word, setBit, List.getD_eq_getElem?_getD]
  by_cases hi : i = wordIndex h f.size
  · subst hi
    have hw' : wordIndex h f.size < f.words.length := hw
    simp [hw']
  · simp [List.getElem?_set_ne (Ne.symm hi), hi]

/-- `GetBit` tests the bit that the hash value selects (R103). -/
theorem getBit_eq (f : BloomFilter) (h : Word) : f.getBit h = (f.word (wordIndex h f.size)).getLsbD (bitIndex h) := by
  have key : ∀ w : Word, (w &&& bitMask h = 0#32) ↔ w.getLsbD (bitIndex h) = false := by
    intro w
    constructor
    · intro hz
      have := congrArg (fun v : Word => v.getLsbD (bitIndex h)) hz
      simpa [getLsbD_bitMask] using this
    · intro hz
      apply BitVec.eq_of_getLsbD_eq
      intro k hk
      simp only [BitVec.getLsbD_and, getLsbD_bitMask, BitVec.getLsbD_zero]
      by_cases hkk : k = bitIndex h
      · subst hkk; simp [hz]
      · simp [hkk]
  unfold getBit
  cases hb : (f.word (wordIndex h f.size)).getLsbD (bitIndex h) with
  | false => simp [(key _).mpr hb]
  | true =>
    have : ¬ (f.word (wordIndex h f.size) &&& bitMask h = 0#32) := by simp [key, hb]
    simp [this]

theorem wf_iff {c : Config} {f : BloomFilter} : f.wf c = true ↔ isPow2 f.size = true ∧ f.size ≤ c.maxWords := by
  simp [wf]

end BloomFilter

end Sys2Proof.Machine
end

