-- ==== Sys2Proof/Laws/Bits.lean ====
section
/-! SUPPORT. Laws/Bits.lean: the operations on filters, bit by bit of the filter's bit vector (R55). -/

namespace Sys2Proof.Machine

/-- Splitting a bit number into word and bit survives the remainder (R104). -/
theorem mod_split (x n : Nat) : x % (32 * n) = 32 * (x / 32 % n) + x % 32 := by
  rw [Nat.mod_mul]; omega

namespace BloomFilter

variable {f fa fb : BloomFilter}

theorem bit_zero (n b : Nat) : (zero n).bit b = false := by
  unfold bit; rw [word_zero]; simp

theorem bit_union (hs : fa.size = fb.size) (b : Nat) : (fa.union fb).bit b = (fa.bit b || fb.bit b) := by
  unfold bit; rw [word_union hs, BitVec.getLsbD_or]

theorem bit_inter (hs : fa.size = fb.size) (b : Nat) : (fa.inter fb).bit b = (fa.bit b && fb.bit b) := by
  unfold bit; rw [word_inter hs, BitVec.getLsbD_and]

/-- Two filters of one size with the same bits are equal. -/
theorem ext_bit (hs : fa.size = fb.size) (h : ∀ b, b < 32 * fa.size → fa.bit b = fb.bit b) : fa = fb := by
  apply ext_word hs
  intro i hi
  apply BitVec.eq_of_getLsbD_eq
  intro b hb
  have := h (32 * i + b) (by omega)
  unfold bit at this
  rwa [show (32 * i + b) / 32 = i by omega, show (32 * i + b) % 32 = b by omega] at this

/-- `GetBit` of a hash value reads bit number `h mod (32 * size)`. -/
theorem getBit_eq_bit (hp : isPow2 f.size = true) (hn : f.size ≤ 2 ^ 31) (h : Word) :
    f.getBit h = f.bit (h.toNat % (32 * f.size)) := by
  have := Nat.mod_lt h.toNat (show 0 < 32 by decide)
  rw [getBit_eq, bit, wordIndex_eq hp hn, bitIndex_eq, mod_split]
  congr 1
  · congr 1; omega
  · omega

/-- `SetBit` of a hash value sets bit number `h mod (32 * size)` and no other. -/
theorem bit_setBit (hp : isPow2 f.size = true) (hn : f.size ≤ 2 ^ 31) (h : Word) (b : Nat) :
    (f.setBit h).bit b = (f.bit b || (h.toNat % (32 * f.size) == b)) := by
  have hb := Nat.mod_lt h.toNat (show 0 < 32 by decide)
  unfold bit
  rw [word_setBit (wordIndex_lt hp hn), wordIndex_eq hp hn, mod_split]
  split
  · rename_i e
    rw [BitVec.getLsbD_or, getLsbD_bitMask, bitIndex_eq, ← e]
    congr 1
    rw [Bool.eq_iff_iff, decide_eq_true_eq, beq_iff_eq]; omega
  · rename_i e
    have : (32 * (h.toNat / 32 % f.size) + h.toNat % 32 == b) = false := by rw [beq_eq_false_iff_ne]; omega
    rw [this, Bool.or_false]

/-- A word is covered by another when its bits are. -/
theorem and_eq_self_iff {x y : Word} : x &&& y = x ↔ ∀ b, x.getLsbD b = true → y.getLsbD b = true := by
  constructor
  · intro h b hb
    have := congrArg (fun w : Word => w.getLsbD b) h
    simpa only [BitVec.getLsbD_and, hb, Bool.true_and] using this
  · intro h
    apply BitVec.eq_of_getLsbD_eq
    intro b _
    rw [BitVec.getLsbD_and]
    cases hx : x.getLsbD b
    · rfl
    · simp [h b hx]

/-- The subset test, word by word (R143). -/
theorem subset_iff_word (hs : fa.size = fb.size) :
    fa.subset fb = true ↔ ∀ i, i < fa.size → fa.word i &&& fb.word i = fa.word i := by
  have key : ∀ i, i < fa.size →
      (List.zipWith (fun x y => x &&& y == x) fa.words fb.words)[i]? = some (fa.word i &&& fb.word i == fa.word i) := by
    intro i hi
    simp [List.getElem?_zipWith, getElem?_words hi, getElem?_words (hs ▸ hi)]
  unfold subset
  rw [List.all_eq_true]
  constructor
  · intro h i hi
    simpa using h _ (List.mem_iff_getElem?.mpr ⟨i, key i hi⟩)
  · intro h x hx
    obtain ⟨i, hi⟩ := List.mem_iff_getElem?.mp hx
    by_cases hlt : i < fa.size
    · rw [key i hlt] at hi
      cases hi
      simp [h i hlt]
    · simp [List.getElem?_zipWith, List.getElem?_eq_none (show fa.words.length ≤ i from Nat.le_of_not_lt hlt)] at hi

/-- One run of `foldStep`s: the bits of word `j` afterwards (R160). -/
theorem foldStep_bit {m : Nat} (hm : isPow2 m = true) (ps : List (Word × Nat)) (dst : List Word) (hd : dst.length = m)
    (j b : Nat) (hj : j < m) : ((ps.foldl (foldStep m) dst).getD j 0#32).getLsbD b = true ↔
      (dst.getD j 0#32).getLsbD b = true ∨ ∃ p ∈ ps, p.2 % m = j ∧ p.1.getLsbD b = true := by
  induction ps generalizing dst with
  | nil => simp
  | cons p ps ih =>
    rw [List.foldl_cons, ih _ (by simp [foldStep, hd])]
    have : ((foldStep m dst p).getD j 0#32).getLsbD b = true ↔
        (dst.getD j 0#32).getLsbD b = true ∨ (p.2 % m = j ∧ p.1.getLsbD b = true) := by
      unfold foldStep
      rw [and_mask_eq_mod hm]
      by_cases e : p.2 % m = j
      · subst e
        rw [List.getD_eq_getElem?_getD, List.getElem?_set_self (by omega), Option.getD_some, BitVec.getLsbD_or]
        simp
      · rw [List.getD_eq_getElem?_getD, List.getElem?_set_ne e]; simp [e]
    rw [this]
    simp only [List.exists_mem_cons_iff]
    tauto

end BloomFilter

end Sys2Proof.Machine
end

