-- ==== Sys2Proof/Laws/Memory.lean ====
section
/-! SUPPORT. Laws/Memory.lean: slot storage: read after write, and that every memory operation keeps the canonical form. -/

namespace Sys2Proof.Machine.Memory

variable {c : Config} {m : Memory}

@[simp] theorem length_put (m : Memory) (n : Nat) (v : Option BloomFilter) : (m.put n v).length = m.length := by
  simp [put]

/-- A slot reads as what was last written to it. -/
theorem slot_put_same {n : Nat} (h : n < m.length) (v : Option BloomFilter) : (m.put n v).slot n = v := by
  simp [put, slot, h]

/-- A write leaves every other slot alone. -/
theorem slot_put_ne {n k : Nat} (h : k ≠ n) (m : Memory) (v : Option BloomFilter) : (m.put n v).slot k = m.slot k := by
  simp [put, slot, List.getElem?_set_ne (Ne.symm h)]

/-- A slot that holds a filter is a slot of the block. -/
theorem lt_of_slot {n : Nat} {f : BloomFilter} (h : m.slot n = some f) : n < m.length := by
  by_contra hn
  simp [slot, List.getElem?_eq_none (Nat.le_of_not_lt hn)] at h

theorem wf_iff : m.wf c = true ↔ m.length = c.nslot ∧ ∀ n f, m.slot n = some f → f.wf c = true := by
  constructor
  · intro h
    simp only [wf, Bool.and_eq_true, decide_eq_true_eq, List.all_eq_true] at h
    refine ⟨h.1, fun n f hf => ?_⟩
    have hn := lt_of_slot hf
    have hm : m[n] = some f := by simpa [slot, List.getElem?_eq_getElem hn] using hf
    simpa [hm] using h.2 _ (List.getElem_mem hn)
  · rintro ⟨hl, h⟩
    simp only [wf, Bool.and_eq_true, decide_eq_true_eq, List.all_eq_true]
    refine ⟨hl, fun v hv => ?_⟩
    obtain ⟨n, hn, rfl⟩ := List.getElem_of_mem hv
    cases hm : m[n] with
    | none => rfl
    | some f => exact h n f (by simp [slot, List.getElem?_eq_getElem hn, hm])

theorem length_of_wf (h : m.wf c = true) : m.length = c.nslot := (wf_iff.mp h).1

/-- Every filter in storage has a legal size (R21). -/
theorem filter_wf {n : Nat} {f : BloomFilter} (h : m.wf c = true) (hf : m.slot n = some f) : f.wf c = true :=
  (wf_iff.mp h).2 n f hf

/-- Writing nothing, or a filter of a legal size, keeps the canonical form. -/
theorem wf_put (h : m.wf c = true) (n : Nat) {v : Option BloomFilter} (hv : ∀ f, v = some f → f.wf c = true) :
    (m.put n v).wf c = true := by
  rw [wf_iff] at h ⊢
  refine ⟨by simpa using h.1, fun k f hf => ?_⟩
  by_cases hk : k = n
  · subst hk
    have hl := lt_of_slot hf
    rw [length_put] at hl
    rw [slot_put_same hl] at hf
    exact hv f hf
  · rw [slot_put_ne hk] at hf
    exact h.2 k f hf

/-- Storage after reset is canonical and holds no filter (R43). -/
theorem wf_reset (c : Config) : wf c (List.replicate c.nslot none) = true := by
  simp [wf]

@[simp] theorem slot_reset (k n : Nat) : slot (List.replicate k none) n = none := by
  simp only [slot, List.getElem?_replicate]
  split <;> rfl

/-- A word is read from a filter (R56). -/
theorem word_of_slot {n : Nat} {f : BloomFilter} (h : m.slot n = some f) (i : Nat) : m.word n i = f.words[i]? := by
  simp [word, h]

end Sys2Proof.Machine.Memory
end

