-- ==== Sys2Proof/Laws/State.lean ====
section
/-! SUPPORT. Laws/State.lean: what each update of the state leaves in each field, so that no proof unfolds a record update. -/

namespace Sys2Proof.Machine.State

variable (s : State)

@[simp] theorem putSlot_cfg (n : Nat) (v : Option BloomFilter) : (s.putSlot n v).cfg = s.cfg := rfl
@[simp] theorem putSlot_slots (n : Nat) (v : Option BloomFilter) : (s.putSlot n v).slots = s.slots.put n v := rfl
@[simp] theorem putSlot_argq (n : Nat) (v : Option BloomFilter) : (s.putSlot n v).argq = s.argq := rfl
@[simp] theorem putSlot_pending (n : Nat) (v : Option BloomFilter) : (s.putSlot n v).pending = s.pending := rfl
@[simp] theorem putSlot_done (n : Nat) (v : Option BloomFilter) : (s.putSlot n v).done = s.done := rfl
@[simp] theorem putSlot_err (n : Nat) (v : Option BloomFilter) : (s.putSlot n v).err = s.err := rfl
@[simp] theorem putSlot_ieDone (n : Nat) (v : Option BloomFilter) : (s.putSlot n v).ieDone = s.ieDone := rfl
@[simp] theorem putSlot_ieErr (n : Nat) (v : Option BloomFilter) : (s.putSlot n v).ieErr = s.ieErr := rfl
@[simp] theorem putSlot_result (n : Nat) (v : Option BloomFilter) : (s.putSlot n v).result = s.result := rfl
@[simp] theorem putSlot_errCode (n : Nat) (v : Option BloomFilter) : (s.putSlot n v).errCode = s.errCode := rfl
@[simp] theorem putSlot_errInfo (n : Nat) (v : Option BloomFilter) : (s.putSlot n v).errInfo = s.errInfo := rfl
@[simp] theorem putSlot_turns (n : Nat) (v : Option BloomFilter) : (s.putSlot n v).turns = s.turns := rfl
@[simp] theorem putSlot_responses (n : Nat) (v : Option BloomFilter) : (s.putSlot n v).responses = s.responses := rfl

@[simp] theorem argPop_cfg : (s.argPop).cfg = s.cfg := rfl
@[simp] theorem argPop_slots : (s.argPop).slots = s.slots := rfl
@[simp] theorem argPop_argq : (s.argPop).argq = s.argq.tail := rfl
@[simp] theorem argPop_pending : (s.argPop).pending = s.pending := rfl
@[simp] theorem argPop_done : (s.argPop).done = s.done := rfl
@[simp] theorem argPop_err : (s.argPop).err = s.err := rfl
@[simp] theorem argPop_ieDone : (s.argPop).ieDone = s.ieDone := rfl
@[simp] theorem argPop_ieErr : (s.argPop).ieErr = s.ieErr := rfl
@[simp] theorem argPop_result : (s.argPop).result = s.result := rfl
@[simp] theorem argPop_errCode : (s.argPop).errCode = s.errCode := rfl
@[simp] theorem argPop_errInfo : (s.argPop).errInfo = s.errInfo := rfl
@[simp] theorem argPop_turns : (s.argPop).turns = s.turns := rfl
@[simp] theorem argPop_responses : (s.argPop).responses = s.responses := rfl

@[simp] theorem argDrop_cfg (n : Nat) : (s.argDrop n).cfg = s.cfg := rfl
@[simp] theorem argDrop_slots (n : Nat) : (s.argDrop n).slots = s.slots := rfl
@[simp] theorem argDrop_argq (n : Nat) : (s.argDrop n).argq = s.argq.drop n := rfl
@[simp] theorem argDrop_pending (n : Nat) : (s.argDrop n).pending = s.pending := rfl
@[simp] theorem argDrop_done (n : Nat) : (s.argDrop n).done = s.done := rfl
@[simp] theorem argDrop_err (n : Nat) : (s.argDrop n).err = s.err := rfl
@[simp] theorem argDrop_ieDone (n : Nat) : (s.argDrop n).ieDone = s.ieDone := rfl
@[simp] theorem argDrop_ieErr (n : Nat) : (s.argDrop n).ieErr = s.ieErr := rfl
@[simp] theorem argDrop_result (n : Nat) : (s.argDrop n).result = s.result := rfl
@[simp] theorem argDrop_errCode (n : Nat) : (s.argDrop n).errCode = s.errCode := rfl
@[simp] theorem argDrop_errInfo (n : Nat) : (s.argDrop n).errInfo = s.errInfo := rfl
@[simp] theorem argDrop_turns (n : Nat) : (s.argDrop n).turns = s.turns := rfl
@[simp] theorem argDrop_responses (n : Nat) : (s.argDrop n).responses = s.responses := rfl

@[simp] theorem argPush_cfg (v : Word) : (s.argPush v).cfg = s.cfg := rfl
@[simp] theorem argPush_slots (v : Word) : (s.argPush v).slots = s.slots := rfl
@[simp] theorem argPush_argq (v : Word) : (s.argPush v).argq = s.argq ++ [v] := rfl
@[simp] theorem argPush_pending (v : Word) : (s.argPush v).pending = s.pending := rfl
@[simp] theorem argPush_done (v : Word) : (s.argPush v).done = s.done := rfl
@[simp] theorem argPush_err (v : Word) : (s.argPush v).err = s.err := rfl
@[simp] theorem argPush_ieDone (v : Word) : (s.argPush v).ieDone = s.ieDone := rfl
@[simp] theorem argPush_ieErr (v : Word) : (s.argPush v).ieErr = s.ieErr := rfl
@[simp] theorem argPush_result (v : Word) : (s.argPush v).result = s.result := rfl
@[simp] theorem argPush_errCode (v : Word) : (s.argPush v).errCode = s.errCode := rfl
@[simp] theorem argPush_errInfo (v : Word) : (s.argPush v).errInfo = s.errInfo := rfl
@[simp] theorem argPush_turns (v : Word) : (s.argPush v).turns = s.turns := rfl
@[simp] theorem argPush_responses (v : Word) : (s.argPush v).responses = s.responses := rfl

@[simp] theorem argClear_cfg : (s.argClear).cfg = s.cfg := rfl
@[simp] theorem argClear_slots : (s.argClear).slots = s.slots := rfl
@[simp] theorem argClear_argq : (s.argClear).argq = [] := rfl
@[simp] theorem argClear_pending : (s.argClear).pending = s.pending := rfl
@[simp] theorem argClear_done : (s.argClear).done = s.done := rfl
@[simp] theorem argClear_err : (s.argClear).err = s.err := rfl
@[simp] theorem argClear_ieDone : (s.argClear).ieDone = s.ieDone := rfl
@[simp] theorem argClear_ieErr : (s.argClear).ieErr = s.ieErr := rfl
@[simp] theorem argClear_result : (s.argClear).result = s.result := rfl
@[simp] theorem argClear_errCode : (s.argClear).errCode = s.errCode := rfl
@[simp] theorem argClear_errInfo : (s.argClear).errInfo = s.errInfo := rfl
@[simp] theorem argClear_turns : (s.argClear).turns = s.turns := rfl
@[simp] theorem argClear_responses : (s.argClear).responses = s.responses := rfl

@[simp] theorem setResult_cfg (v : Word) : (s.setResult v).cfg = s.cfg := rfl
@[simp] theorem setResult_slots (v : Word) : (s.setResult v).slots = s.slots := rfl
@[simp] theorem setResult_argq (v : Word) : (s.setResult v).argq = s.argq := rfl
@[simp] theorem setResult_pending (v : Word) : (s.setResult v).pending = s.pending := rfl
@[simp] theorem setResult_done (v : Word) : (s.setResult v).done = s.done := rfl
@[simp] theorem setResult_err (v : Word) : (s.setResult v).err = s.err := rfl
@[simp] theorem setResult_ieDone (v : Word) : (s.setResult v).ieDone = s.ieDone := rfl
@[simp] theorem setResult_ieErr (v : Word) : (s.setResult v).ieErr = s.ieErr := rfl
@[simp] theorem setResult_result (v : Word) : (s.setResult v).result = v := rfl
@[simp] theorem setResult_errCode (v : Word) : (s.setResult v).errCode = s.errCode := rfl
@[simp] theorem setResult_errInfo (v : Word) : (s.setResult v).errInfo = s.errInfo := rfl
@[simp] theorem setResult_turns (v : Word) : (s.setResult v).turns = s.turns := rfl
@[simp] theorem setResult_responses (v : Word) : (s.setResult v).responses = s.responses := rfl

@[simp] theorem setResultSlot_cfg (d : Nat) : (s.setResultSlot d).cfg = s.cfg := rfl
@[simp] theorem setResultSlot_slots (d : Nat) : (s.setResultSlot d).slots = s.slots := rfl
@[simp] theorem setResultSlot_argq (d : Nat) : (s.setResultSlot d).argq = s.argq := rfl
@[simp] theorem setResultSlot_pending (d : Nat) : (s.setResultSlot d).pending = s.pending := rfl
@[simp] theorem setResultSlot_done (d : Nat) : (s.setResultSlot d).done = s.done := rfl
@[simp] theorem setResultSlot_err (d : Nat) : (s.setResultSlot d).err = s.err := rfl
@[simp] theorem setResultSlot_ieDone (d : Nat) : (s.setResultSlot d).ieDone = s.ieDone := rfl
@[simp] theorem setResultSlot_ieErr (d : Nat) : (s.setResultSlot d).ieErr = s.ieErr := rfl
@[simp] theorem setResultSlot_result (d : Nat) : (s.setResultSlot d).result = BitVec.ofNat 32 d := rfl
@[simp] theorem setResultSlot_errCode (d : Nat) : (s.setResultSlot d).errCode = s.errCode := rfl
@[simp] theorem setResultSlot_errInfo (d : Nat) : (s.setResultSlot d).errInfo = s.errInfo := rfl
@[simp] theorem setResultSlot_turns (d : Nat) : (s.setResultSlot d).turns = s.turns := rfl
@[simp] theorem setResultSlot_responses (d : Nat) : (s.setResultSlot d).responses = s.responses := rfl

@[simp] theorem complete_cfg : (s.complete).cfg = s.cfg := rfl
@[simp] theorem complete_slots : (s.complete).slots = s.slots := rfl
@[simp] theorem complete_argq : (s.complete).argq = s.argq := rfl
@[simp] theorem complete_pending : (s.complete).pending = none := rfl
@[simp] theorem complete_done : (s.complete).done = true := rfl
@[simp] theorem complete_err : (s.complete).err = s.err := rfl
@[simp] theorem complete_ieDone : (s.complete).ieDone = s.ieDone := rfl
@[simp] theorem complete_ieErr : (s.complete).ieErr = s.ieErr := rfl
@[simp] theorem complete_result : (s.complete).result = s.result := rfl
@[simp] theorem complete_errCode : (s.complete).errCode = s.errCode := rfl
@[simp] theorem complete_errInfo : (s.complete).errInfo = s.errInfo := rfl
@[simp] theorem complete_turns : (s.complete).turns = s.turns := rfl
@[simp] theorem complete_responses : (s.complete).responses = s.responses := rfl

@[simp] theorem clearErr_cfg : (s.clearErr).cfg = s.cfg := rfl
@[simp] theorem clearErr_slots : (s.clearErr).slots = s.slots := rfl
@[simp] theorem clearErr_argq : (s.clearErr).argq = s.argq := rfl
@[simp] theorem clearErr_pending : (s.clearErr).pending = s.pending := rfl
@[simp] theorem clearErr_done : (s.clearErr).done = s.done := rfl
@[simp] theorem clearErr_err : (s.clearErr).err = false := rfl
@[simp] theorem clearErr_ieDone : (s.clearErr).ieDone = s.ieDone := rfl
@[simp] theorem clearErr_ieErr : (s.clearErr).ieErr = s.ieErr := rfl
@[simp] theorem clearErr_result : (s.clearErr).result = s.result := rfl
@[simp] theorem clearErr_errCode : (s.clearErr).errCode = s.errCode := rfl
@[simp] theorem clearErr_errInfo : (s.clearErr).errInfo = s.errInfo := rfl
@[simp] theorem clearErr_turns : (s.clearErr).turns = s.turns := rfl
@[simp] theorem clearErr_responses : (s.clearErr).responses = s.responses := rfl

@[simp] theorem clearDone_cfg : (s.clearDone).cfg = s.cfg := rfl
@[simp] theorem clearDone_slots : (s.clearDone).slots = s.slots := rfl
@[simp] theorem clearDone_argq : (s.clearDone).argq = s.argq := rfl
@[simp] theorem clearDone_pending : (s.clearDone).pending = s.pending := rfl
@[simp] theorem clearDone_done : (s.clearDone).done = false := rfl
@[simp] theorem clearDone_err : (s.clearDone).err = s.err := rfl
@[simp] theorem clearDone_ieDone : (s.clearDone).ieDone = s.ieDone := rfl
@[simp] theorem clearDone_ieErr : (s.clearDone).ieErr = s.ieErr := rfl
@[simp] theorem clearDone_result : (s.clearDone).result = s.result := rfl
@[simp] theorem clearDone_errCode : (s.clearDone).errCode = s.errCode := rfl
@[simp] theorem clearDone_errInfo : (s.clearDone).errInfo = s.errInfo := rfl
@[simp] theorem clearDone_turns : (s.clearDone).turns = s.turns := rfl
@[simp] theorem clearDone_responses : (s.clearDone).responses = s.responses := rfl

@[simp] theorem setEnables_cfg (v : Word) : (s.setEnables v).cfg = s.cfg := rfl
@[simp] theorem setEnables_slots (v : Word) : (s.setEnables v).slots = s.slots := rfl
@[simp] theorem setEnables_argq (v : Word) : (s.setEnables v).argq = s.argq := rfl
@[simp] theorem setEnables_pending (v : Word) : (s.setEnables v).pending = s.pending := rfl
@[simp] theorem setEnables_done (v : Word) : (s.setEnables v).done = s.done := rfl
@[simp] theorem setEnables_err (v : Word) : (s.setEnables v).err = s.err := rfl
@[simp] theorem setEnables_ieDone (v : Word) : (s.setEnables v).ieDone = v.getLsbD 0 := rfl
@[simp] theorem setEnables_ieErr (v : Word) : (s.setEnables v).ieErr = v.getLsbD 1 := rfl
@[simp] theorem setEnables_result (v : Word) : (s.setEnables v).result = s.result := rfl
@[simp] theorem setEnables_errCode (v : Word) : (s.setEnables v).errCode = s.errCode := rfl
@[simp] theorem setEnables_errInfo (v : Word) : (s.setEnables v).errInfo = s.errInfo := rfl
@[simp] theorem setEnables_turns (v : Word) : (s.setEnables v).turns = s.turns := rfl
@[simp] theorem setEnables_responses (v : Word) : (s.setEnables v).responses = s.responses := rfl

@[simp] theorem respond_cfg (r : BusResponse) : (s.respond r).cfg = s.cfg := rfl
@[simp] theorem respond_slots (r : BusResponse) : (s.respond r).slots = s.slots := rfl
@[simp] theorem respond_argq (r : BusResponse) : (s.respond r).argq = s.argq := rfl
@[simp] theorem respond_pending (r : BusResponse) : (s.respond r).pending = s.pending := rfl
@[simp] theorem respond_done (r : BusResponse) : (s.respond r).done = s.done := rfl
@[simp] theorem respond_err (r : BusResponse) : (s.respond r).err = s.err := rfl
@[simp] theorem respond_ieDone (r : BusResponse) : (s.respond r).ieDone = s.ieDone := rfl
@[simp] theorem respond_ieErr (r : BusResponse) : (s.respond r).ieErr = s.ieErr := rfl
@[simp] theorem respond_result (r : BusResponse) : (s.respond r).result = s.result := rfl
@[simp] theorem respond_errCode (r : BusResponse) : (s.respond r).errCode = s.errCode := rfl
@[simp] theorem respond_errInfo (r : BusResponse) : (s.respond r).errInfo = s.errInfo := rfl
@[simp] theorem respond_turns (r : BusResponse) : (s.respond r).turns = s.turns := rfl
@[simp] theorem respond_responses (r : BusResponse) : (s.respond r).responses = s.responses ++ [r] := rfl

@[simp] theorem latch_cfg (c : Word) : (s.latch c).cfg = s.cfg := rfl
@[simp] theorem latch_slots (c : Word) : (s.latch c).slots = s.slots := rfl
@[simp] theorem latch_argq (c : Word) : (s.latch c).argq = s.argq := rfl
@[simp] theorem latch_pending (c : Word) : (s.latch c).pending = some c := rfl
@[simp] theorem latch_done (c : Word) : (s.latch c).done = s.done := rfl
@[simp] theorem latch_err (c : Word) : (s.latch c).err = s.err := rfl
@[simp] theorem latch_ieDone (c : Word) : (s.latch c).ieDone = s.ieDone := rfl
@[simp] theorem latch_ieErr (c : Word) : (s.latch c).ieErr = s.ieErr := rfl
@[simp] theorem latch_result (c : Word) : (s.latch c).result = s.result := rfl
@[simp] theorem latch_errCode (c : Word) : (s.latch c).errCode = s.errCode := rfl
@[simp] theorem latch_errInfo (c : Word) : (s.latch c).errInfo = s.errInfo := rfl
@[simp] theorem latch_turns (c : Word) : (s.latch c).turns = s.turns := rfl
@[simp] theorem latch_responses (c : Word) : (s.latch c).responses = s.responses := rfl

@[simp] theorem resetEffect_cfg : (s.resetEffect).cfg = s.cfg := rfl
@[simp] theorem resetEffect_slots : (s.resetEffect).slots = List.replicate s.cfg.nslot none := rfl
@[simp] theorem resetEffect_argq : (s.resetEffect).argq = [] := rfl
@[simp] theorem resetEffect_pending : (s.resetEffect).pending = none := rfl
@[simp] theorem resetEffect_done : (s.resetEffect).done = false := rfl
@[simp] theorem resetEffect_err : (s.resetEffect).err = false := rfl
@[simp] theorem resetEffect_ieDone : (s.resetEffect).ieDone = false := rfl
@[simp] theorem resetEffect_ieErr : (s.resetEffect).ieErr = false := rfl
@[simp] theorem resetEffect_result : (s.resetEffect).result = 0#32 := rfl
@[simp] theorem resetEffect_errCode : (s.resetEffect).errCode = 0#32 := rfl
@[simp] theorem resetEffect_errInfo : (s.resetEffect).errInfo = 0#32 := rfl
@[simp] theorem resetEffect_turns : (s.resetEffect).turns = s.turns := rfl
@[simp] theorem resetEffect_responses : (s.resetEffect).responses = s.responses := rfl

@[simp] theorem recordError_cfg (e : ErrCode) (o : Byte) (w : Word) : (s.recordError e o w).cfg = s.cfg := by
  unfold recordError; split <;> rfl
@[simp] theorem recordError_slots (e : ErrCode) (o : Byte) (w : Word) : (s.recordError e o w).slots = s.slots := by
  unfold recordError; split <;> rfl
@[simp] theorem recordError_argq (e : ErrCode) (o : Byte) (w : Word) : (s.recordError e o w).argq = s.argq := by
  unfold recordError; split <;> rfl
@[simp] theorem recordError_pending (e : ErrCode) (o : Byte) (w : Word) : (s.recordError e o w).pending = s.pending := by
  unfold recordError; split <;> rfl
@[simp] theorem recordError_done (e : ErrCode) (o : Byte) (w : Word) : (s.recordError e o w).done = s.done := by
  unfold recordError; split <;> rfl
@[simp] theorem recordError_ieDone (e : ErrCode) (o : Byte) (w : Word) : (s.recordError e o w).ieDone = s.ieDone := by
  unfold recordError; split <;> rfl
@[simp] theorem recordError_ieErr (e : ErrCode) (o : Byte) (w : Word) : (s.recordError e o w).ieErr = s.ieErr := by
  unfold recordError; split <;> rfl
@[simp] theorem recordError_result (e : ErrCode) (o : Byte) (w : Word) : (s.recordError e o w).result = s.result := by
  unfold recordError; split <;> rfl
@[simp] theorem recordError_turns (e : ErrCode) (o : Byte) (w : Word) : (s.recordError e o w).turns = s.turns := by
  unfold recordError; split <;> rfl
@[simp] theorem recordError_responses (e : ErrCode) (o : Byte) (w : Word) : (s.recordError e o w).responses = s.responses := by
  unfold recordError; split <;> rfl

/-- An error is recorded or one was: ERR is 1 (R200). -/
@[simp] theorem recordError_err (e : ErrCode) (o : Byte) (w : Word) : (s.recordError e o w).err = true := by
  unfold recordError; split <;> simp_all

theorem recordError_errCode (e : ErrCode) (o : Byte) (w : Word) :
    (s.recordError e o w).errCode = if s.err then s.errCode else errCodeWord e o := by
  unfold recordError; split <;> rfl

theorem recordError_errInfo (e : ErrCode) (o : Byte) (w : Word) :
    (s.recordError e o w).errInfo = if s.err then s.errInfo else w := by
  unfold recordError; split <;> rfl

/-- Nesting (R209): while ERR is 1 nothing is recorded. -/
theorem recordError_of_err {s : State} (h : s.err = true) (e : ErrCode) (o : Byte) (w : Word) :
    s.recordError e o w = s := by
  simp [recordError, h]

/-- The first error is recorded (R200). -/
theorem recordError_of_not_err {s : State} (h : s.err = false) (e : ErrCode) (o : Byte) (w : Word) :
    s.recordError e o w = { s with err := true, errCode := errCodeWord e o, errInfo := w } := by
  simp [recordError, h]

@[simp] theorem busyError_eq (off : Byte) : s.busyError off = s.recordError .busyWrite 0x00#8 (off.setWidth 32) := rfl

@[simp] theorem slotAt_putSlot (n k : Nat) (v : Option BloomFilter) :
    (s.putSlot n v).slotAt k = (s.slots.put n v).slot k := rfl

@[simp] theorem slotAt_complete (k : Nat) : s.complete.slotAt k = s.slotAt k := rfl

@[simp] theorem slotAt_setResult (v : Word) (k : Nat) : (s.setResult v).slotAt k = s.slotAt k := rfl

@[simp] theorem slotAt_setResultSlot (d k : Nat) : (s.setResultSlot d).slotAt k = s.slotAt k := rfl

@[simp] theorem slotAt_argPop (k : Nat) : s.argPop.slotAt k = s.slotAt k := rfl

@[simp] theorem slotAt_argDrop (n k : Nat) : (s.argDrop n).slotAt k = s.slotAt k := rfl

@[simp] theorem slotAt_recordError (e : ErrCode) (o : Byte) (w : Word) (k : Nat) :
    (s.recordError e o w).slotAt k = s.slotAt k := by
  unfold recordError; split <;> rfl

end Sys2Proof.Machine.State
end

