-- ==== Sys2Proof/Laws/Meanings.lean ====
section
/-! SUPPORT. Laws/Meanings.lean: what each check answers, everything the end of a command can do, and the state each command
leaves when its checks pass. -/

namespace Sys2Proof.Machine

variable {s : State}

/-! ## The checks -/

theorem checkRange_ok {n : Nat} (h : n < s.cfg.nslot) : checkRange s n = .ok () := by simp [checkRange, h]

theorem checkRange_error {n : Nat} (h : s.cfg.nslot ≤ n) : checkRange s n = .error ⟨.slotRange, BitVec.ofNat 32 n⟩ := by
  simp [checkRange, Nat.not_lt.mpr h]

theorem checkValid_ok {n : Nat} {f : BloomFilter} (h : s.slotAt n = some f) : checkValid s n = .ok f := by
  simp [checkValid, h]

theorem checkValid_error {n : Nat} (h : s.slotAt n = none) : checkValid s n = .error ⟨.slotInvalid, BitVec.ofNat 32 n⟩ := by
  simp [checkValid, h]

theorem sizeCheck_ok {n : Nat} (hp : isPow2 n = true) (hm : n ≤ s.cfg.maxWords) : sizeCheck s n = .ok () := by
  simp [sizeCheck, hp, hm]

theorem argCheck_ok {n : Nat} (h : n ≤ s.argCount) : argCheck s n = .ok () := by simp [argCheck, Nat.not_lt.mpr h]

theorem indexCheck_ok {f : BloomFilter} {i : Nat} (h : i < f.size) : indexCheck f i = .ok () := by simp [indexCheck, h]

theorem pairCheck_ok {fa fb : BloomFilter} (h : fa.size = fb.size) : pairCheck fa fb = .ok () := by simp [pairCheck, h]

theorem shrinkCheck_ok {f : BloomFilter} {m : Nat} (h : m ≤ f.size) : shrinkCheck f m = .ok () := by simp [shrinkCheck, h]

/-- Going on after a check that passed. -/
@[simp] theorem except_ok_bind {α β : Type} (a : α) (f : α → Except CmdError β) : (Except.ok a >>= f) = f a := rfl

/-- A check that failed ends the command. -/
@[simp] theorem except_error_bind {α β : Type} (e : CmdError) (f : α → Except CmdError β) :
    ((Except.error e : Except CmdError α) >>= f) = .error e := rfl

/-- A command's rule that succeeds went on after its first check. -/
theorem except_bind_eq_ok {α β : Type} {x : Except CmdError α} {f : α → Except CmdError β} {b : β} :
    (x >>= f) = .ok b ↔ ∃ a, x = .ok a ∧ f a = .ok b := by
  cases x <;> simp

/-! ## The end of a command -/

@[simp] theorem finish_ok (s t : State) (o : Byte) : s.finish o (.ok t) = .next t.complete := rfl

@[simp] theorem finish_error (s : State) (o : Byte) (e : CmdError) :
    s.finish o (.error e) = .next (s.recordError e.code o e.info).complete := rfl

/-- Everything the end of a command can do: its own effect, or an error recorded on the old state. -/
theorem finish_next {o : Byte} {r : Except CmdError State} {t : State} (h : s.finish o r = .next t) :
    (∃ u, r = .ok u ∧ t = u.complete) ∨ (∃ e, r = .error e ∧ t = (s.recordError e.code o e.info).complete) := by
  cases r with
  | ok u => exact .inl ⟨u, rfl, by simpa using h.symm⟩
  | error e => exact .inr ⟨e, rfl, by simpa using h.symm⟩

/-- A command always ends in a next state. -/
theorem finish_total (s : State) (o : Byte) (r : Except CmdError State) : ∃ t, s.finish o r = .next t := by
  cases r <;> exact ⟨_, rfl⟩

/-! ## The state each command leaves -/

theorem execConstruct_ok {d n : Nat} (hd : d < s.cfg.nslot) (hp : isPow2 n = true) (hm : n ≤ s.cfg.maxWords) :
    execConstruct d n s = .next ((s.putSlot d (some (.zero n))).setResultSlot d).complete := by
  simp [execConstruct, constructEffect, checkRange_ok hd, sizeCheck_ok hp hm, pure, Except.pure]

theorem execRelease_ok {d : Nat} (hd : d < s.cfg.nslot) :
    execRelease d s = .next ((s.putSlot d none).setResultSlot d).complete := by
  simp [execRelease, releaseEffect, checkRange_ok hd, pure, Except.pure]

theorem execLoadw_ok {d i : Nat} {f : BloomFilter} (hd : d < s.cfg.nslot) (hf : s.slotAt d = some f) (hi : i < f.size)
    (hq : 1 ≤ s.argCount) :
    execLoadw d i s =
      .next ((s.argPop.putSlot d (some { words := f.words.set i s.argFront })).setResultSlot d).complete := by
  simp [execLoadw, loadwEffect, checkRange_ok hd, checkValid_ok hf, indexCheck_ok hi, argCheck_ok hq, pure, Except.pure]

theorem execReadw_ok {a i : Nat} {f : BloomFilter} (ha : a < s.cfg.nslot) (hf : s.slotAt a = some f) (hi : i < f.size) :
    execReadw a i s = .next (s.setResult (f.word i)).complete := by
  simp [execReadw, readwEffect, checkRange_ok ha, checkValid_ok hf, indexCheck_ok hi, pure, Except.pure]

theorem execGetsize_ok {a : Nat} {f : BloomFilter} (ha : a < s.cfg.nslot) (hf : s.slotAt a = some f) :
    execGetsize a s = .next (s.setResult (BitVec.ofNat 32 f.size)).complete := by
  simp [execGetsize, getsizeEffect, checkRange_ok ha, checkValid_ok hf, pure, Except.pure]

theorem execAdd_ok {d n : Nat} {f : BloomFilter} (hd : d < s.cfg.nslot) (hf : s.slotAt d = some f) (hn : n ≤ s.argCount) :
    execAdd d n s =
      .next (((s.argDrop n).putSlot d (some (f.setBits (s.argFirst n)))).setResultSlot d).complete := by
  simp [execAdd, addEffect, checkRange_ok hd, checkValid_ok hf, argCheck_ok hn, pure, Except.pure]

theorem execContains_ok {a n : Nat} {f : BloomFilter} (ha : a < s.cfg.nslot) (hf : s.slotAt a = some f)
    (hn : n ≤ s.argCount) :
    execContains a n s = .next ((s.argDrop n).setResult (boolWord (f.getBits (s.argFirst n)))).complete := by
  simp [execContains, containsEffect, checkRange_ok ha, checkValid_ok hf, argCheck_ok hn, pure, Except.pure]

theorem pairOperands_ok {d a b : Nat} {fa fb : BloomFilter} (hd : d < s.cfg.nslot) (ha : a < s.cfg.nslot)
    (hb : b < s.cfg.nslot) (hfa : s.slotAt a = some fa) (hfb : s.slotAt b = some fb) (hs : fa.size = fb.size) :
    pairOperands d a b s = .ok (fa, fb) := by
  simp [pairOperands, checkRange_ok hd, checkRange_ok ha, checkRange_ok hb, checkValid_ok hfa, checkValid_ok hfb,
    pairCheck_ok hs, pure, Except.pure]

theorem execUnion_ok {d a b : Nat} {fa fb : BloomFilter} (hd : d < s.cfg.nslot) (ha : a < s.cfg.nslot)
    (hb : b < s.cfg.nslot) (hfa : s.slotAt a = some fa) (hfb : s.slotAt b = some fb) (hs : fa.size = fb.size) :
    execUnion d a b s = .next ((s.putSlot d (some (fa.union fb))).setResultSlot d).complete := by
  simp [execUnion, unionEffect, pairOperands_ok hd ha hb hfa hfb hs, pure, Except.pure]

theorem execIntersect_ok {d a b : Nat} {fa fb : BloomFilter} (hd : d < s.cfg.nslot) (ha : a < s.cfg.nslot)
    (hb : b < s.cfg.nslot) (hfa : s.slotAt a = some fa) (hfb : s.slotAt b = some fb) (hs : fa.size = fb.size) :
    execIntersect d a b s = .next ((s.putSlot d (some (fa.inter fb))).setResultSlot d).complete := by
  simp [execIntersect, intersectEffect, pairOperands_ok hd ha hb hfa hfb hs, pure, Except.pure]

theorem execSubset_ok {a b : Nat} {fa fb : BloomFilter} (ha : a < s.cfg.nslot) (hb : b < s.cfg.nslot)
    (hfa : s.slotAt a = some fa) (hfb : s.slotAt b = some fb) (hs : fa.size = fb.size) :
    execSubset a b s = .next (s.setResult (boolWord (fa.subset fb))).complete := by
  simp [execSubset, subsetEffect, checkRange_ok ha, checkRange_ok hb, checkValid_ok hfa, checkValid_ok hfb,
    pairCheck_ok hs, pure, Except.pure]

theorem execReduce_ok {d a m : Nat} {f : BloomFilter} (hd : d < s.cfg.nslot) (ha : a < s.cfg.nslot)
    (hf : s.slotAt a = some f) (hp : isPow2 m = true) (hm : m ≤ s.cfg.maxWords) (hs : m ≤ f.size) :
    execReduce d a m s = .next ((s.putSlot d (some (f.fold m))).setResultSlot d).complete := by
  simp [execReduce, reduceEffect, checkRange_ok hd, checkRange_ok ha, checkValid_ok hf, sizeCheck_ok hp hm, shrinkCheck_ok hs,
    pure, Except.pure]

theorem execHash_ok {a : Nat} {f : BloomFilter} (ha : a < s.cfg.nslot) (hf : s.slotAt a = some f) :
    execHash a s = .next (s.setResult (xorFold f.words)).complete := by
  simp [execHash, hashEffect, checkRange_ok ha, checkValid_ok hf, pure, Except.pure]

theorem execDensity_ok {a : Nat} {f : BloomFilter} (ha : a < s.cfg.nslot) (hf : s.slotAt a = some f) :
    execDensity a s = .next (s.setResult (BitVec.ofNat 32 (density f.words))).complete := by
  simp [execDensity, densityEffect, checkRange_ok ha, checkValid_ok hf, pure, Except.pure]

/-! ## The operand queue -/

/-- `n` times `ArgPop()` one after the other: the entries and the state left (R24). -/
def argPops : Nat → State → List Word × State
  | 0, s => ([], s)
  | n + 1, s => let r := argPops n s.argPop; (s.argFront :: r.1, r.2)

/-- Taking and dropping `n` entries is `n` times `ArgPop()`, when there are that many. -/
theorem argPops_eq {n : Nat} (h : n ≤ s.argCount) : argPops n s = (s.argFirst n, s.argDrop n) := by
  induction n generalizing s with
  | zero => simp [argPops, State.argFirst, State.argDrop]
  | succ n ih =>
    cases hq : s.argq with
    | nil => simp [State.argCount, hq] at h
    | cons w ws =>
      have h' : n ≤ s.argPop.argCount := by
        simp only [State.argCount, State.argPop, hq, List.length_cons, List.tail_cons] at h ⊢
        omega
      rw [argPops, ih h']
      simp [State.argFirst, State.argDrop, State.argPop, State.argFront, hq]

end Sys2Proof.Machine
end

