-- ==== Sys2Proof/Laws/Step.lean ====
section
/-! SUPPORT. Laws/Step.lean: a step by the agent whose move is next, and what `exec` can answer. -/

namespace Sys2Proof.Machine

variable {s : State}

@[simp] theorem State.advance_cfg (s : State) : s.advance.cfg = s.cfg := rfl

@[simp] theorem State.advance_slots (s : State) : s.advance.slots = s.slots := rfl

@[simp] theorem State.advance_argq (s : State) : s.advance.argq = s.argq := rfl

@[simp] theorem State.advance_pending (s : State) : s.advance.pending = s.pending := rfl

@[simp] theorem State.advance_done (s : State) : s.advance.done = s.done := rfl

@[simp] theorem State.advance_err (s : State) : s.advance.err = s.err := rfl

@[simp] theorem State.advance_ieDone (s : State) : s.advance.ieDone = s.ieDone := rfl

@[simp] theorem State.advance_ieErr (s : State) : s.advance.ieErr = s.ieErr := rfl

@[simp] theorem State.advance_result (s : State) : s.advance.result = s.result := rfl

@[simp] theorem State.advance_errCode (s : State) : s.advance.errCode = s.errCode := rfl

@[simp] theorem State.advance_errInfo (s : State) : s.advance.errInfo = s.errInfo := rfl

@[simp] theorem State.advance_responses (s : State) : s.advance.responses = s.responses := rfl

@[simp] theorem State.advance_turns (s : State) : s.advance.turns = s.restTurns := rfl

@[simp] theorem State.slotAt_advance (s : State) (n : Nat) : s.advance.slotAt n = s.slotAt n := rfl

@[simp] theorem State.argCount_advance (s : State) : s.advance.argCount = s.argCount := rfl

/-- The checks of a command do not look at the moves to come. -/
@[simp] theorem firstError_advance (i : Instr) (s : State) : firstError i s.advance = firstError i s := by
  have h1 : Check.fails s.advance = Check.fails s := by
    funext c; cases c <;> rfl
  have h2 : Check.error s.advance = Check.error s := by
    funext c; cases c <;> rfl
  simp only [firstError, h1, h2]

/-- A step whose next move is the engine's. -/
theorem step_engine (h : s.nextTurn = .engine) : step s = engineTurn s.advance := by
  cases s with
  | mk cfg slots argq pending done err ieDone ieErr result errCode errInfo turns responses =>
    cases turns with
    | nil => rfl
    | cons t rest =>
      simp only [State.nextTurn, List.headD_cons] at h
      subst h
      rfl

/-- A step whose next move is a host access. -/
theorem step_host {a : BusAccess} (h : s.nextTurn = .host a) :
    step s = .next (s.advance.hostAccess a) := by
  cases s with
  | mk cfg slots argq pending done err ieDone ieErr result errCode errInfo turns responses =>
    cases turns with
    | nil => simp [State.nextTurn] at h
    | cons t rest =>
      simp only [State.nextTurn, List.headD_cons] at h
      subst h
      rfl

/-- A step whose next move is a hardware reset. -/
theorem step_reset (h : s.nextTurn = .reset) : step s = .next s.advance.resetEffect := by
  cases s with
  | mk cfg slots argq pending done err ieDone ieErr result errCode errInfo turns responses =>
    cases turns with
    | nil => simp [State.nextTurn] at h
    | cons t rest =>
      simp only [State.nextTurn, List.headD_cons] at h
      subst h
      rfl

/-- The engine with a command in flight executes it. -/
theorem engineTurn_some {c : Word} (h : s.pending = some c) : engineTurn s = execute c s := by simp [engineTurn, h]

/-- The engine without a command in flight does nothing. -/
theorem engineTurn_none (h : s.pending = none) : engineTurn s = .next s := by simp [engineTurn, h]

/-- Executing a word that decodes to a command runs its meaning. -/
theorem execute_ok {c : Word} {i : Instr} (h : decode c = .ok i) : execute c s = exec i s := by simp [execute, h]

/-- Every meaning ends in a next state. -/
theorem exec_total (i : Instr) (s : State) : ∃ t, exec i s = .next t := by
  cases i <;> exact finish_total _ _ _

/-- Every command word ends in a next state. -/
theorem execute_total (c : Word) (s : State) : ∃ t, execute c s = .next t := by
  unfold execute
  split
  · exact exec_total _ _
  · exact finish_total _ _ _
  · exact finish_total _ _ _

/-- A run of one step more starts with that step. -/
theorem runSteps_succ {k : Nat} {t : State} (h : step s = .next t) : runSteps (k + 1) s = runSteps k t := by
  simp [runSteps, h]

/-- A run of one step is a step. -/
theorem runSteps_one (s : State) : runSteps 1 s = step s := by
  cases h : step s <;> simp [runSteps, h]

/-- The runs of the machine behind the host's interface. -/
theorem runSteps_eq_run (k : Nat) (s : State) : runSteps k s = Sys2Proof.core.run k s := by
  induction k generalizing s with
  | zero => rfl
  | succ k ih =>
    have h : Sys2Proof.core.step s = step s := rfl
    simp only [runSteps, Host.Core.run]
    rw [h]
    cases step s with
    | next t => exact ih t
    | fault r => rfl
    | refused r => rfl

/-- The record of an error and the completion, written out (R29, R200). -/
theorem recordError_complete (s : State) (e : ErrCode) (opc : Byte) (info : Word) :
    (s.recordError e opc info).complete = s.failed e.byte opc info := by
  unfold State.recordError State.failed State.complete errCodeWord
  cases h : s.err <;> simp [h]

@[simp] theorem failed_slots (s : State) (code opc : Byte) (info : Word) : (s.failed code opc info).slots = s.slots := rfl

@[simp] theorem failed_argq (s : State) (code opc : Byte) (info : Word) : (s.failed code opc info).argq = s.argq := rfl

@[simp] theorem failed_result (s : State) (code opc : Byte) (info : Word) : (s.failed code opc info).result = s.result := rfl

@[simp] theorem failed_cfg (s : State) (code opc : Byte) (info : Word) : (s.failed code opc info).cfg = s.cfg := rfl

@[simp] theorem failed_pending (s : State) (code opc : Byte) (info : Word) : (s.failed code opc info).pending = none := rfl

@[simp] theorem failed_err (s : State) (code opc : Byte) (info : Word) : (s.failed code opc info).err = true := rfl

/-- Soft and hardware reset give the state of R43 but for the host's own fields (R241). -/
theorem resetEffect_eq (s : State) :
    s.resetEffect = { State.resetWith s.cfg with turns := s.turns, responses := s.responses } := rfl

/-- Everything a step can do (R13). -/
theorem step_cases {t : State} (h : step s = .next t) :
    (s.nextTurn = .engine ∧ s.pending = none ∧ t = s.advance) ∨
    (∃ c, s.nextTurn = .engine ∧ s.pending = some c ∧ execute c s.advance = .next t) ∨
    (∃ a, s.nextTurn = .host a ∧ t = s.advance.hostAccess a) ∨
    (s.nextTurn = .reset ∧ t = s.advance.resetEffect) := by
  cases hn : s.nextTurn with
  | engine =>
    rw [step_engine hn] at h
    cases hp : s.pending with
    | none =>
      rw [engineTurn_none (s := s.advance) hp] at h; cases h; exact .inl ⟨rfl, rfl, rfl⟩
    | some c =>
      rw [engineTurn_some (s := s.advance) (c := c) hp] at h; exact .inr (.inl ⟨c, rfl, rfl, h⟩)
  | host a => rw [step_host hn] at h; cases h; exact .inr (.inr (.inl ⟨a, rfl, rfl⟩))
  | reset => rw [step_reset hn] at h; cases h; exact .inr (.inr (.inr ⟨rfl, rfl⟩))

end Sys2Proof.Machine
end

