-- ==== Sys2Proof/Laws/Bus.lean ====
section
/-! SUPPORT. Laws/Bus.lean: the fields of the registers as the host reads them, and a performed access as a step. -/

namespace Sys2Proof.Machine

variable (s : State)

/-- The three flags as STATUS shows them (R32). -/
theorem statusWord_flags :
    s.statusWord.getLsbD 0 = s.busy ∧ s.statusWord.getLsbD 1 = s.done ∧ s.statusWord.getLsbD 2 = s.err := by
  unfold State.statusWord
  generalize BitVec.ofNat 8 s.argCount = q
  cases s.busy <;> cases s.done <;> cases s.err <;> revert q <;> decide

/-- The fields of STATUS that are not flags (R32). -/
theorem statusWord_rest :
    s.statusWord.extractLsb' 3 5 = 0#5 ∧ s.statusWord.extractLsb' 8 8 = BitVec.ofNat 8 s.argCount ∧
      s.statusWord.extractLsb' 16 16 = 0#16 := by
  unfold State.statusWord
  generalize BitVec.ofNat 8 s.argCount = q
  cases s.busy <;> cases s.done <;> cases s.err <;> revert q <;> decide

/-- The enables as CTRL shows them, and nothing else (R31). -/
theorem ctrlWord_bits :
    s.ctrlWord.getLsbD 0 = s.ieDone ∧ s.ctrlWord.getLsbD 1 = s.ieErr ∧ s.ctrlWord.extractLsb' 2 30 = 0#30 := by
  unfold State.ctrlWord
  cases s.ieErr <;> cases s.ieDone <;> decide

theorem BusAccess.writeWord_legal {off : Byte} (h : off.extractLsb' 0 2 = 0#2) (v : Word) :
    (BusAccess.writeWord off v).legal = true := by
  simp [BusAccess.legal, BusAccess.writeWord, h]

theorem BusAccess.read_legal {off : Byte} (h : off.extractLsb' 0 2 = 0#2) : (BusAccess.read off).legal = true := by
  simp [BusAccess.legal, BusAccess.read, h]

variable {s}

/-! ## What each write does, case by case (R59) -/

theorem busy_iff : s.busy = true ↔ s.pending ≠ none := by
  unfold State.busy
  cases s.pending <;> simp

theorem ctrlWrite_softReset {v : Word} (h : v.getLsbD 9 = true) : s.ctrlWrite v = s.resetEffect := by
  simp only [State.ctrlWrite, h, if_true]

theorem ctrlWrite_dropped {v : Word} (h9 : v.getLsbD 9 = false) (h8 : v.getLsbD 8 = true) (hb : s.busy = true) :
    s.ctrlWrite v = s.busyError 0x08#8 := by
  simp only [State.ctrlWrite, h9, h8, hb, Bool.false_eq_true, if_false, Bool.and_self, if_true]

theorem ctrlWrite_argClear {v : Word} (h9 : v.getLsbD 9 = false) (h8 : v.getLsbD 8 = true) (hb : s.busy = false) :
    s.ctrlWrite v = (s.setEnables v).argClear := by
  simp only [State.ctrlWrite, h9, h8, hb, Bool.false_eq_true, if_false, Bool.and_false, if_true]

theorem ctrlWrite_enables {v : Word} (h9 : v.getLsbD 9 = false) (h8 : v.getLsbD 8 = false) :
    s.ctrlWrite v = s.setEnables v := by
  simp only [State.ctrlWrite, h9, h8, Bool.false_eq_true, if_false, Bool.false_and]

theorem cmdWrite_discarded {c : Word} (h : s.err = true) : s.cmdWrite c = s := by simp [State.cmdWrite, h]

theorem cmdWrite_dropped {c : Word} (h : s.err = false) (hb : s.busy = true) : s.cmdWrite c = s.busyError 0x10#8 := by
  simp [State.cmdWrite, h, hb]

theorem cmdWrite_accepted {c : Word} (h : s.err = false) (hb : s.busy = false) :
    s.cmdWrite c = { s with pending := some c } := by
  simp [State.cmdWrite, h, hb]

theorem argWrite_dropped {v : Word} (hb : s.busy = true) : s.argWrite v = s.busyError 0x14#8 := by
  simp [State.argWrite, hb]

theorem argWrite_appended {v : Word} (hb : s.busy = false) (hq : s.argq.length < s.cfg.argqDepth) :
    s.argWrite v = s.argPush v := by
  simp [State.argWrite, hb, State.argCount, hq]

theorem argWrite_full {v : Word} (hb : s.busy = false) (hq : s.cfg.argqDepth ≤ s.argq.length) :
    s.argWrite v = s.recordError .argOverflow 0x00#8 v := by
  simp [State.argWrite, hb, State.argCount, Nat.not_lt.mpr hq]

theorem statusWrite_eq (v : Word) :
    s.statusWrite v = { s with done := s.done && !v.getLsbD 1, err := s.err && !v.getLsbD 2 } := by
  unfold State.statusWrite State.clearDone State.clearErr
  generalize v.getLsbD 1 = b1
  generalize v.getLsbD 2 = b2
  cases b1 <;> cases b2 <;> simp

/-- A write to an offset that is not CTRL, STATUS, CMD or ARG. -/
theorem busWrite_other {off : Byte} {v : Word} (h1 : off ≠ 0x08#8) (h2 : off ≠ 0x0C#8) (h3 : off ≠ 0x10#8)
    (h4 : off ≠ 0x14#8) : s.busWrite off v = s := by
  simp [State.busWrite, h1, h2, h3, h4]

/-! ## A performed access as a step -/

/-- A step that performs a write. -/
theorem step_write {off : Byte} {v : Word} (h : s.nextTurn = writeTurn off v) (ho : off.extractLsb' 0 2 = 0#2) :
    step s = .next ((s.advance.busWrite off v).respond .written) := by
  rw [step_host h, State.hostAccess, BusAccess.writeWord_legal ho]
  rfl

/-- A step that performs a read. -/
theorem step_read {off : Byte} (h : s.nextTurn = readTurn off) (ho : off.extractLsb' 0 2 = 0#2) :
    step s = .next (s.advance.respond (.data (s.advance.busRead off))) := by
  rw [step_host h, State.hostAccess, BusAccess.read_legal ho]
  rfl

/-- The window's addresses and offsets correspond (R51). -/
theorem windowOffset_busAddress (off : Byte) : windowOffset (busAddress off) = some off := by
  have h := off.isLt
  have : Config.bfeBase ≤ busAddress off ∧ busAddress off < Config.bfeBase + 256 := by
    unfold busAddress; omega
  simp only [windowOffset, this, and_self, if_true, Option.some.injEq]
  apply BitVec.eq_of_toNat_eq
  simp only [BitVec.toNat_ofNat, busAddress, Config.bfeBase]
  omega

@[simp] theorem busWrite_ctrl (s : State) (v : Word) : s.busWrite 0x08#8 v = s.ctrlWrite v := rfl

@[simp] theorem busWrite_status (s : State) (v : Word) : s.busWrite 0x0C#8 v = s.statusWrite v := rfl

@[simp] theorem busWrite_cmd (s : State) (v : Word) : s.busWrite 0x10#8 v = s.cmdWrite v := rfl

@[simp] theorem busWrite_arg (s : State) (v : Word) : s.busWrite 0x14#8 v = s.argWrite v := rfl

/-- Everything a host access can do (R52, R53). -/
theorem hostAccess_cases (s : State) (a : BusAccess) :
    ((a.legal = false ∨ a.write = false) ∧ ∃ r, s.hostAccess a = s.respond r) ∨
      (a.legal = true ∧ a.write = true ∧ s.hostAccess a = (s.busWrite a.addr a.wdata).respond .written) := by
  unfold State.hostAccess
  cases hl : a.legal <;> cases hw : a.write <;> simp

/-- Everything a write can do, by its offset (R59). -/
theorem busWrite_cases (s : State) (off : Byte) (v : Word) :
    (off = 0x08#8 ∧ v.getLsbD 9 = true ∧ s.busWrite off v = s.resetEffect) ∨
    (off = 0x08#8 ∧ v.getLsbD 9 = false ∧ s.busy = false ∧ v.getLsbD 8 = true ∧
      s.busWrite off v = (s.setEnables v).argClear) ∨
    (off = 0x08#8 ∧ v.getLsbD 9 = false ∧ v.getLsbD 8 = false ∧ s.busWrite off v = s.setEnables v) ∨
    ((off = 0x08#8 ∧ v.getLsbD 9 = false ∧ v.getLsbD 8 = true ∨ off = 0x10#8 ∧ s.err = false ∨ off = 0x14#8) ∧
      s.busy = true ∧ s.busWrite off v = s.recordError .busyWrite 0x00#8 (off.setWidth 32)) ∨
    (off = 0x0C#8 ∧ s.busWrite off v = { s with done := s.done && !v.getLsbD 1, err := s.err && !v.getLsbD 2 }) ∨
    (off = 0x10#8 ∧ s.err = true ∧ s.busWrite off v = s) ∨
    (off = 0x10#8 ∧ s.err = false ∧ s.busy = false ∧ s.busWrite off v = { s with pending := some v }) ∨
    (off = 0x14#8 ∧ s.busy = false ∧ s.argq.length < s.cfg.argqDepth ∧ s.busWrite off v = s.argPush v) ∨
    (off = 0x14#8 ∧ s.busy = false ∧ s.cfg.argqDepth ≤ s.argq.length ∧
      s.busWrite off v = s.recordError .argOverflow 0x00#8 v) ∨
    (off ≠ 0x08#8 ∧ off ≠ 0x0C#8 ∧ off ≠ 0x10#8 ∧ off ≠ 0x14#8 ∧ s.busWrite off v = s) := by
  by_cases h1 : off = 0x08#8
  · subst h1
    rw [busWrite_ctrl]
    cases h9 : v.getLsbD 9
    · cases h8 : v.getLsbD 8
      · rw [ctrlWrite_enables h9 h8]; simp
      · cases hb : s.busy
        · rw [ctrlWrite_argClear h9 h8 hb]; simp
        · rw [ctrlWrite_dropped h9 h8 hb]; simp
    · rw [ctrlWrite_softReset h9]; simp
  by_cases h2 : off = 0x0C#8
  · subst h2
    rw [busWrite_status, statusWrite_eq]; simp
  by_cases h3 : off = 0x10#8
  · subst h3
    rw [busWrite_cmd]
    cases he : s.err
    · cases hb : s.busy
      · rw [cmdWrite_accepted he hb]; simp [he]
      · rw [cmdWrite_dropped he hb]; simp
    · rw [cmdWrite_discarded he]; simp
  by_cases h4 : off = 0x14#8
  · subst h4
    rw [busWrite_arg]
    cases hb : s.busy
    · by_cases hq : s.argq.length < s.cfg.argqDepth
      · rw [argWrite_appended hb hq]; simp [hq]
      · rw [argWrite_full hb (Nat.le_of_not_lt hq)]; simp [Nat.le_of_not_lt hq]
    · rw [argWrite_dropped hb]; simp
  rw [busWrite_other h1 h2 h3 h4]; simp [h1, h2, h3, h4]

end Sys2Proof.Machine
end

