-- ==== Sys2Proof/Laws/Checks.lean ====
section
/-! SUPPORT. Laws/Checks.lean: each check of Operands.lean in the terms of Safety.lean: it raises the error of its `Check` exactly
when that check fails. -/

namespace Sys2Proof.Machine

variable {s : State}

/-- The first error of a list of checks: the head's, or else that of the rest (R204). -/
theorem find_error_cons (c : Check) (cs : List Check) :
    ((c :: cs).find? (Check.fails s)).map (Check.error s) =
      if c.fails s then some (c.error s) else (cs.find? (Check.fails s)).map (Check.error s) := by
  simp only [List.find?]
  cases c.fails s <;> simp

theorem checkRange_spec (n : Nat) : checkRange s n =
    if (Check.slotRange n).fails s then .error ((Check.slotRange n).error s) else .ok () := by
  by_cases h : n < s.cfg.nslot
  · simp [checkRange, Check.fails, h]
  · simp [checkRange, Check.fails, Check.error, h, Nat.le_of_not_lt h]

theorem checkValid_spec (n : Nat) :
    ((Check.slotInvalid n).fails s = true ∧ checkValid s n = .error ((Check.slotInvalid n).error s)) ∨
      ((Check.slotInvalid n).fails s = false ∧ ∃ f, s.slotAt n = some f ∧ checkValid s n = .ok f) := by
  cases h : s.slotAt n with
  | none => exact .inl ⟨by simp [Check.fails, h], by simp [checkValid, Check.error, h]⟩
  | some f => exact .inr ⟨by simp [Check.fails, h], f, rfl, by simp [checkValid, h]⟩

theorem sizeCheck_spec (n : Nat) : sizeCheck s n =
    if (Check.invalidSize n).fails s then .error ((Check.invalidSize n).error s)
    else if (Check.sizeTooLarge n).fails s then .error ((Check.sizeTooLarge n).error s) else .ok () := by
  cases hp : isPow2 n
  · simp [sizeCheck, Check.fails, Check.error, hp]
  · by_cases h : n ≤ s.cfg.maxWords
    · simp [sizeCheck, Check.fails, hp, h, Nat.not_lt.mpr h]
    · simp [sizeCheck, Check.fails, Check.error, hp, h, Nat.lt_of_not_le h]

theorem argCheck_spec (n : Nat) : argCheck s n =
    if (Check.argUnderflow n).fails s then .error ((Check.argUnderflow n).error s) else .ok () := by
  by_cases h : s.argCount < n <;> simp [argCheck, Check.fails, Check.error, h]

theorem sizeAt_eq {n : Nat} {f : BloomFilter} (h : s.slotAt n = some f) : s.sizeAt n = f.size := by
  simp [State.sizeAt, h]

theorem indexCheck_spec {n : Nat} {f : BloomFilter} (hf : s.slotAt n = some f) (i : Nat) : indexCheck f i =
    if (Check.wordRange i n).fails s then .error ((Check.wordRange i n).error s) else .ok () := by
  by_cases h : i < f.size
  · simp [indexCheck, Check.fails, sizeAt_eq hf, h]
  · simp [indexCheck, Check.fails, Check.error, sizeAt_eq hf, h, Nat.le_of_not_lt h]

theorem pairCheck_spec {a b : Nat} {fa fb : BloomFilter} (ha : s.slotAt a = some fa) (hb : s.slotAt b = some fb) :
    pairCheck fa fb =
      if (Check.sizeMismatch a b).fails s then .error ((Check.sizeMismatch a b).error s) else .ok () := by
  by_cases h : fa.size = fb.size <;> simp [pairCheck, Check.fails, Check.error, sizeAt_eq ha, sizeAt_eq hb, h]

theorem shrinkCheck_spec {a : Nat} {f : BloomFilter} (hf : s.slotAt a = some f) (m : Nat) : shrinkCheck f m =
    if (Check.reduceExpand m a).fails s then .error ((Check.reduceExpand m a).error s) else .ok () := by
  by_cases h : m ≤ f.size
  · simp [shrinkCheck, Check.fails, sizeAt_eq hf, h, Nat.not_lt.mpr h]
  · simp [shrinkCheck, Check.fails, Check.error, sizeAt_eq hf, h, Nat.lt_of_not_le h]

end Sys2Proof.Machine
end

