-- ==== Sys2Proof/Laws/Encoding.lean ====
section
/-! SUPPORT. Laws/Encoding.lean: what the parts of an encoded command leave in the OPC field. -/

namespace Sys2Proof

theorem slotFits_iff {n : Nat} : slotFits n = true ↔ n < 16 := by simp [slotFits]

theorem immFits_iff {n : Nat} : immFits n = true ↔ n < 65536 := by simp [immFits]

theorem fieldOpc_or (x y : Word) : fieldOpc (x ||| y) = fieldOpc x ||| fieldOpc y := by
  simp [fieldOpc, BitVec.extractLsb'_or]

/-- A number shifted to a place below OPC leaves OPC zero. -/
theorem fieldOpc_shift {n w k : Nat} (hn : n < 2 ^ w) (hk : w + k ≤ 24) : fieldOpc (BitVec.ofNat 32 n <<< k) = 0#8 := by
  apply BitVec.eq_of_getLsbD_eq
  intro i _
  simp only [fieldOpc, BitVec.getLsbD_extractLsb', BitVec.getLsbD_shiftLeft, BitVec.getLsbD_ofNat]
  have : n.testBit (24 + i - k) = false :=
    Nat.testBit_lt_two_pow (Nat.lt_of_lt_of_le hn (Nat.pow_le_pow_right (by decide) (by omega)))
  simp [this]

theorem fieldOpc_putD {n : Nat} (h : n < 16) : fieldOpc (putD n) = 0#8 := fieldOpc_shift (w := 4) h (by decide)

theorem fieldOpc_putA {n : Nat} (h : n < 16) : fieldOpc (putA n) = 0#8 := fieldOpc_shift (w := 4) h (by decide)

theorem fieldOpc_putB {n : Nat} (h : n < 16) : fieldOpc (putB n) = 0#8 := fieldOpc_shift (w := 4) h (by decide)

theorem fieldOpc_putImm {n : Nat} (h : n < 65536) : fieldOpc (putImm n) = 0#8 := by
  simpa [putImm] using fieldOpc_shift (w := 16) (k := 0) h (by decide)

theorem fieldOpc_pattern (o : Opcode) : fieldOpc o.pattern = o.opc := by cases o <;> decide

/-- The opcodes of R86 are distinct: the row of a row's OPC is that row. -/
theorem ofByte_opc (o : Opcode) : Opcode.ofByte o.opc = some o := by cases o <;> decide

/-- A row found by its OPC has that OPC. -/
theorem opc_of_ofByte {b : Byte} {o : Opcode} (h : Opcode.ofByte b = some o) : o.opc = b := by
  simpa using List.find?_some h

/-! ## Fields in place: what a placed number shows under a mask or in a field -/

/-- The bits that a placed number can set. -/
theorem put_bit {n w k i : Nat} (hn : n < 2 ^ w) :
    (BitVec.ofNat 32 n <<< k).getLsbD i = true → k ≤ i ∧ i < k + w := by
  intro h
  simp only [BitVec.getLsbD_shiftLeft, BitVec.getLsbD_ofNat, Bool.and_eq_true, Bool.not_eq_true',
    decide_eq_false_iff_not, decide_eq_true_eq] at h
  refine ⟨by omega, ?_⟩
  by_contra hc
  have : n.testBit (i - k) = false :=
    Nat.testBit_lt_two_pow (Nat.lt_of_lt_of_le hn (Nat.pow_le_pow_right (by decide) (by omega)))
  simp_all

/-- Under a mask without those bits nothing is left. -/
theorem put_and {n w k : Nat} {m : Word} (hn : n < 2 ^ w)
    (hm : ∀ i < 32, k ≤ i → i < k + w → m.getLsbD i = false) :
    (BitVec.ofNat 32 n <<< k) &&& m = 0#32 := by
  apply BitVec.eq_of_getLsbD_eq
  intro i hi
  rw [BitVec.getLsbD_and, BitVec.getLsbD_zero]
  by_cases h : (BitVec.ofNat 32 n <<< k).getLsbD i = true
  · have := put_bit hn h
    rw [hm i hi this.1 this.2]; simp
  · simp [Bool.eq_false_iff.mpr h]

/-- In a field apart from its own it shows 0. -/
theorem put_ext_zero {n w k i l : Nat} (hn : n < 2 ^ w) (hd : i + l ≤ k ∨ k + w ≤ i) :
    (BitVec.ofNat 32 n <<< k).extractLsb' i l = 0#l := by
  apply BitVec.eq_of_getLsbD_eq
  intro j hj
  rw [BitVec.getLsbD_extractLsb', BitVec.getLsbD_zero]
  by_cases h : (BitVec.ofNat 32 n <<< k).getLsbD (i + j) = true
  · have := put_bit hn h; omega
  · simp [Bool.eq_false_iff.mpr h]

/-- In its own field it shows itself. -/
theorem put_ext_same {n w k : Nat} (hk : k + w ≤ 32) :
    (BitVec.ofNat 32 n <<< k).extractLsb' k w = BitVec.ofNat w n := by
  apply BitVec.eq_of_getLsbD_eq
  intro j hj
  have h1 : k + j < 32 := by omega
  have h2 : k + j - k = j := by omega
  rw [BitVec.getLsbD_extractLsb', BitVec.getLsbD_shiftLeft, BitVec.getLsbD_ofNat, BitVec.getLsbD_ofNat]
  simp [h1, h2, hj, show j < 32 by omega]

/-- A field taken out and placed again is the word under the field's mask. -/
theorem put_field {c : Word} {k w : Nat} :
    BitVec.ofNat 32 (c.extractLsb' k w).toNat <<< k = c &&& (BitVec.ofNat 32 (2 ^ w - 1) <<< k) := by
  apply BitVec.eq_of_getLsbD_eq
  intro i hi
  simp only [BitVec.getLsbD_and, BitVec.getLsbD_shiftLeft, BitVec.getLsbD_ofNat, BitVec.testBit_toNat,
    BitVec.getLsbD_extractLsb', Nat.testBit_two_pow_sub_one]
  by_cases h1 : i < k
  · simp [h1]
  · have : k + (i - k) = i := by omega
    rw [this]
    cases c.getLsbD i <;> by_cases h2 : i - k < w <;> simp [hi, h1, h2]

end Sys2Proof
end

