-- ==== Sys2Proof/Laws/PerInstr.lean ====
section
/-! SUPPORT. Laws/PerInstr.lean: facts said of every instruction, one lemma per constructor. -/

namespace Sys2Proof.Laws.EncodedOpc

/-- The encoding of a well-formed instruction carries the OPC of its row (R82, R86). -/
def Statement (i : Instr) : Prop := i.wellFormed = true → fieldOpc (encode i) = i.opcode.opc

theorem construct (d n : Nat) : Statement (.construct d n) := by
  intro h
  simp only [Instr.wellFormed, Bool.and_eq_true, slotFits_iff, immFits_iff] at h
  simp [encode, Instr.opcode, fieldOpc_or, fieldOpc_putD h.1, fieldOpc_putImm h.2, fieldOpc_pattern]

theorem release (d : Nat) : Statement (.release d) := by
  intro h
  simp only [Instr.wellFormed, slotFits_iff] at h
  simp [encode, Instr.opcode, fieldOpc_or, fieldOpc_putD h, fieldOpc_pattern]

theorem loadw (d i : Nat) : Statement (.loadw d i) := by
  intro h
  simp only [Instr.wellFormed, Bool.and_eq_true, slotFits_iff, immFits_iff] at h
  simp [encode, Instr.opcode, fieldOpc_or, fieldOpc_putD h.1, fieldOpc_putImm h.2, fieldOpc_pattern]

theorem readw (a i : Nat) : Statement (.readw a i) := by
  intro h
  simp only [Instr.wellFormed, Bool.and_eq_true, slotFits_iff, immFits_iff] at h
  simp [encode, Instr.opcode, fieldOpc_or, fieldOpc_putA h.1, fieldOpc_putImm h.2, fieldOpc_pattern]

theorem getsize (a : Nat) : Statement (.getsize a) := by
  intro h
  simp only [Instr.wellFormed, slotFits_iff] at h
  simp [encode, Instr.opcode, fieldOpc_or, fieldOpc_putA h, fieldOpc_pattern]

theorem add (d n : Nat) : Statement (.add d n) := by
  intro h
  simp only [Instr.wellFormed, Bool.and_eq_true, slotFits_iff, immFits_iff] at h
  simp [encode, Instr.opcode, fieldOpc_or, fieldOpc_putD h.1, fieldOpc_putImm h.2, fieldOpc_pattern]

theorem contains (a n : Nat) : Statement (.contains a n) := by
  intro h
  simp only [Instr.wellFormed, Bool.and_eq_true, slotFits_iff, immFits_iff] at h
  simp [encode, Instr.opcode, fieldOpc_or, fieldOpc_putA h.1, fieldOpc_putImm h.2, fieldOpc_pattern]

theorem union (d a b : Nat) : Statement (.union d a b) := by
  intro h
  simp only [Instr.wellFormed, Bool.and_eq_true, slotFits_iff] at h
  simp [encode, Instr.opcode, fieldOpc_or, fieldOpc_putD h.1.1, fieldOpc_putA h.1.2, fieldOpc_putB h.2, fieldOpc_pattern]

theorem intersect (d a b : Nat) : Statement (.intersect d a b) := by
  intro h
  simp only [Instr.wellFormed, Bool.and_eq_true, slotFits_iff] at h
  simp [encode, Instr.opcode, fieldOpc_or, fieldOpc_putD h.1.1, fieldOpc_putA h.1.2, fieldOpc_putB h.2, fieldOpc_pattern]

theorem subset (a b : Nat) : Statement (.subset a b) := by
  intro h
  simp only [Instr.wellFormed, Bool.and_eq_true, slotFits_iff] at h
  simp [encode, Instr.opcode, fieldOpc_or, fieldOpc_putA h.1, fieldOpc_putB h.2, fieldOpc_pattern]

theorem reduce (d a m : Nat) : Statement (.reduce d a m) := by
  intro h
  simp only [Instr.wellFormed, Bool.and_eq_true, slotFits_iff, immFits_iff] at h
  simp [encode, Instr.opcode, fieldOpc_or, fieldOpc_putD h.1.1, fieldOpc_putA h.1.2, fieldOpc_putImm h.2, fieldOpc_pattern]

theorem hash (a : Nat) : Statement (.hash a) := by
  intro h
  simp only [Instr.wellFormed, slotFits_iff] at h
  simp [encode, Instr.opcode, fieldOpc_or, fieldOpc_putA h, fieldOpc_pattern]

theorem density (a : Nat) : Statement (.density a) := by
  intro h
  simp only [Instr.wellFormed, slotFits_iff] at h
  simp [encode, Instr.opcode, fieldOpc_or, fieldOpc_putA h, fieldOpc_pattern]

end Sys2Proof.Laws.EncodedOpc
end

