-- ==== Sys2Proof/Tests/Slice0.lean ====
section
/-! SUPPORT. Tests/Slice0.lean: small tests, their expected values from the spec's rules and vectors (`95_test_vectors.md`, by
their names V-…), and a witness for the hypotheses of every statement that has some. -/

namespace Sys2Proof.Tests

open Sys2Proof Sys2Proof.Machine

/-! ## Well-formedness -/

theorem test_wf_slot_refused : (Instr.release 16).wellFormed = false ∧ (Instr.union 1 2 16).wellFormed = false ∧
    (Instr.subset 16 0).wellFormed = false ∧ (Instr.reduce 0 16 1).wellFormed = false ∧
    (Instr.hash 16).wellFormed = false ∧ (Instr.density 16).wellFormed = false ∧ (Instr.getsize 16).wellFormed = false := by decide

theorem test_wf_imm_refused : (Instr.construct 0 65536).wellFormed = false ∧ (Instr.loadw 0 65536).wellFormed = false ∧
    (Instr.readw 0 65536).wellFormed = false ∧ (Instr.add 0 65536).wellFormed = false ∧
    (Instr.contains 0 65536).wellFormed = false ∧ (Instr.reduce 0 0 65536).wellFormed = false := by decide

theorem test_wf_intersect_refused : (Instr.intersect 16 0 0).wellFormed = false ∧ (Instr.intersect 0 16 0).wellFormed = false ∧
    (Instr.intersect 0 0 16).wellFormed = false := by decide

/-! ## Decoding: words written bit by bit from R83 and R86 (OPC, D, A, B or IMM16) -/

theorem test_decode_construct : decode 0b00000001000100000000000000001000#32 = .ok (.construct 1 8) := by decide
theorem test_decode_release : decode 0b00000010111100000000000000000000#32 = .ok (.release 15) := by decide
theorem test_decode_loadw : decode 0b00000011001000001000000000000011#32 = .ok (.loadw 2 0x8003) := by decide
theorem test_decode_readw : decode 0b00000100000000101111111111111111#32 = .ok (.readw 2 65535) := by decide
theorem test_decode_getsize : decode 0b00000101000000010000000000000000#32 = .ok (.getsize 1) := by decide
theorem test_decode_add : decode 0b00010000000100000000000000000010#32 = .ok (.add 1 2) := by decide
theorem test_decode_contains : decode 0b00010001000000010000000000000001#32 = .ok (.contains 1 1) := by decide
theorem test_decode_union : decode 0b00100000001100010010000000000000#32 = .ok (.union 3 1 2) := by decide
theorem test_decode_intersect : decode 0b00100001010000010010000000000000#32 = .ok (.intersect 4 1 2) := by decide
theorem test_decode_subset : decode 0b00100010000000010010000000000000#32 = .ok (.subset 1 2) := by decide
theorem test_decode_reduce : decode 0b00110000011001010000000000000100#32 = .ok (.reduce 6 5 4) := by decide
theorem test_decode_hash : decode 0b01000000000000110000000000000000#32 = .ok (.hash 3) := by decide
theorem test_decode_density : decode 0b01000001000000110000000000000000#32 = .ok (.density 3) := by decide

/-- R88, V-D1 to V-D3. -/
theorem test_decode_illegal : decode 0#32 = .illegalOpcode ∧ decode 0x06000000#32 = .illegalOpcode ∧
    decode 0xFF123456#32 = .illegalOpcode := by decide

/-- R87, V-D4, V-D6, V-D7, V-D8, V-D9, V-D10: one must-be-zero bit set in each kind of field. -/
theorem test_decode_reserved : decode 0x01110004#32 = .reservedField ∧ decode 0x02100001#32 = .reservedField ∧
    decode 0x20312001#32 = .reservedField ∧ decode 0x22312000#32 = .reservedField ∧
    decode 0x40030001#32 = .reservedField ∧ decode 0x04120000#32 = .reservedField := by decide

/-- The encoder on the examples of R106, R141 and R161. -/
theorem test_encode : encode (.construct 1 8) = 0x01100008#32 ∧ encode (.union 3 1 2) = 0x20312000#32 ∧
    encode (.reduce 6 5 4) = 0x30650004#32 := by decide

theorem test_decodeTableWord : decodeTableWord 32 0x30650004 = some (.reduce 6 5 4) ∧ decodeTableWord 32 0 = none ∧
    decodeTableWord 8 0x30650004 = none := by decide

/-! ## One step per test -/

/-- Storage with these filters and nothing else, as the vectors' "start" column gives it, and these operands queued. -/
def demo (fs : List (Nat × List Word)) (q : List Word) : State :=
  fs.foldl (fun s p => s.putSlot p.1 (some { words := p.2 })) { State.reset with argq := q }

/-- The state after one step that runs a command word, or nothing. -/
def ran (s : State) (w : Nat) : Option State :=
  match step (s.withFetchWord 32 w) with
  | .next t => some t
  | .fault _ => none
  | .refused _ => none

/-- The state after one step whose move is this, or nothing. -/
def moved (s : State) (t : Turn) : Option State :=
  match step { s with turns := [t] } with
  | .next u => some u
  | .fault _ => none
  | .refused _ => none

/-- What the vectors' last columns give: RESULT, ERRCODE, ERRINFO, STATUS. -/
def regs (s : State) : Word × Word × Word × Word := (s.result, s.errCode, s.errInfo, s.statusWord)

/-- s1 and s2 of the vectors of 3.5, P8 of 3.6 in slot 5, a filter of one word in the last slot, and two operands. -/
def pair : State :=
  demo [(1, [1, 0, 0, 0x10]), (2, [3, 0x80000000, 0, 0]), (5, [1, 2, 4, 8, 0x10, 0x20, 0x40, 0x80]), (7, [5])] [0, 0x64]

/-- V-S17: a filter that is constructed anew. -/
theorem test_construct : (ran (demo [(1, [7, 7])] []) 0x01100004).map (fun t => (t.slotAt 1, regs t)) =
    some (some ⟨[0, 0, 0, 0]⟩, 1, 0, 0, 2) := by decide

/-- V-S11 (size 0) and V-S14. -/
theorem test_construct_errors : (ran State.reset 0x01100000).map regs = some (0, 0x105, 0, 6) ∧
    (ran State.reset 0x01108000).map regs = some (0, 0x106, 0x8000, 6) := by decide

/-- V-S19: releasing an invalid slot is no error. -/
theorem test_release : (ran State.reset 0x02300000).map regs = some (3, 0, 0, 2) ∧
    (ran pair 0x02100000).map (fun t => t.slotAt 1) = some none := by decide

/-- V-S24: the oldest operand is taken, the other stays. -/
theorem test_loadw : (ran (demo [(2, [0, 0, 0, 0])] [0x11111111, 0x22222222]) 0x03200001).map
    (fun t => (t.slotAt 2, t.argq, regs t)) = some (some ⟨[0, 0x11111111, 0, 0]⟩, [0x22222222], 2, 0, 0, 0x102) := by decide

/-- V-S22 (the index is checked before ARGQ) and V-S23. -/
theorem test_loadw_errors : (ran (demo [(2, [0, 0, 0, 0])] []) 0x03200004).map regs = some (0, 0x309, 4, 6) ∧
    (ran (demo [(2, [0, 0, 0, 0])] []) 0x03200000).map regs = some (0, 0x30A, 0x10000, 6) := by decide

/-- V-E17: word 3 of s1. -/
theorem test_readw : (ran (demo [(1, [1, 0, 0, 0x10])] []) 0x04010003).map regs = some (0x10, 0, 0, 2) := by decide

/-- V-S21 and V-S28. -/
theorem test_readw_errors : (ran (demo [(2, [0, 0, 0, 0])] []) 0x04020004).map regs = some (0, 0x409, 4, 6) ∧
    (ran State.reset 0x04080000).map regs = some (0, 0x403, 8, 6) := by decide

/-- V-S4 and V-S27. -/
theorem test_getsize : (ran pair 0x05050000).map State.result = some 8 ∧
    (ran State.reset 0x05070000).map regs = some (0, 0x504, 7, 6) := by decide

/-- V-M1. -/
theorem test_add : (ran (demo [(1, [0, 0, 0, 0])] [0, 0x64]) 0x10100002).map (fun t => (t.slotAt 1, regs t)) =
    some (some ⟨[1, 0, 0, 0x10]⟩, 1, 0, 0, 2) := by decide

/-- V-M7 (the highest word and bit) and V-M10 (nothing is consumed). -/
theorem test_add_edges : (ran (demo [(1, [0, 0, 0, 0])] [0xFFFFFFFF]) 0x10100001).map (fun t => t.slotAt 1) =
      some (some ⟨[0, 0, 0, 0x80000000]⟩) ∧
    (ran (demo [(1, [0, 0, 0, 0])] [5, 6]) 0x10100003).map regs = some (0, 0x100A, 0x30002, 0x206) := by decide

/-- V-M14: one operand is left. -/
theorem test_contains : (ran (demo [(1, [1, 0, 0, 0x10])] [0x64, 0x99]) 0x11010001).map regs = some (1, 0, 0, 0x102) := by decide

/-- V-M13 (all operands are consumed) and V-M12 (the empty AND). -/
theorem test_contains_edges : (ran (demo [(1, [1, 0, 0, 0x10])] [0x65, 0, 0x64]) 0x11010003).map regs = some (0, 0, 0, 2) ∧
    (ran (demo [(1, [1, 0, 0, 0x10])] []) 0x11010000).map State.result = some 1 := by decide

/-- V-O5: the destination is a source. -/
theorem test_union : (ran pair 0x20112000).map (fun t => (t.slotAt 1, t.slotAt 2, t.result)) =
    some (some ⟨[3, 0x80000000, 0, 0x10]⟩, some ⟨[3, 0x80000000, 0, 0]⟩, 1) := by decide

/-- V-O10 and V-O13. -/
theorem test_union_errors :
    (ran (demo [(1, [1, 0, 0, 0x10]), (6, [0, 0, 0, 0, 0, 0, 0, 0])] []) 0x20316000).map regs = some (0, 0x2007, 0x40008, 6) ∧
    (ran pair 0x20912000).map regs = some (0, 0x2003, 9, 0x206) := by decide

/-- V-O6: the destination is the second source. -/
theorem test_intersect : (ran pair 0x21212000).map (fun t => (t.slotAt 2, t.result)) = some (some ⟨[1, 0, 0, 0]⟩, 2) := by decide

/-- V-O12. -/
theorem test_intersect_invalid : (ran (demo [(1, [1, 0, 0, 0x10])] []) 0x21312000).map regs = some (0, 0x2104, 2, 6) := by decide

/-- V-O3 and V-O4. -/
theorem test_subset : (ran pair 0x22012000).map State.result = some 0 ∧
    (ran (demo [(1, [1, 0, 0, 0x10]), (4, [1, 0, 0, 0])] []) 0x22041000).map State.result = some 1 := by decide

/-- V-O11: the sizes in the order of the operands. -/
theorem test_subset_mismatch :
    (ran (demo [(1, [1, 0, 0, 0x10]), (6, [0, 0, 0, 0, 0, 0, 0, 0])] []) 0x22061000).map regs = some (0, 0x2207, 0x80004, 6) := by
  decide

/-- V-R4: the destination is the source. -/
theorem test_reduce : (ran pair 0x30550002).map (fun t => (t.slotAt 5, t.result)) = some (some ⟨[0x55, 0xAA]⟩, 5) := by decide

/-- V-R10, V-R11. -/
theorem test_reduce_errors : (ran (demo [(5, [1, 0, 0, 0, 1, 0, 0, 0])] []) 0x30650010).map regs = some (0, 0x3008, 0x100008, 6) ∧
    (ran (demo [(5, [1, 0, 0, 0, 1, 0, 0, 0])] []) 0x30650800).map regs = some (0, 0x3006, 0x800, 6) := by decide

/-- V-H2, V-H12. -/
theorem test_hash : (ran (demo [(3, [3, 0x80000000, 0, 0x10])] []) 0x40030000).map State.result = some 0x80000013 ∧
    (ran (demo [(3, [0x80000000])] []) 0x40030000).map State.result = some 0x80000000 := by decide

/-- V-H4, V-H7. -/
theorem test_density : (ran (demo [(3, [0xDEADBEEF])] []) 0x41030000).map State.result = some 24 ∧
    (ran (demo [(3, [0xFFFFFFFF, 0xFFFFFFFF])] []) 0x41030000).map State.result = some 64 := by decide

/-- V-D3 and V-D5 (the must-be-zero bits before the slot range): an undecodable word completes with its error. -/
theorem test_decode_errors_complete : (ran State.reset 0xFF123456).map regs = some (0, 0xFF01, 0xFF123456, 6) ∧
    (ran State.reset 0x01910004).map regs = some (0, 0x102, 0x01910004, 6) := by decide

/-- V-X6, V-X9, V-X10. -/
theorem test_index : (wordIndex 0x12345678#32 8, bitIndex 0x12345678#32) = (3, 24) ∧
    (wordIndex 0x80000000#32 1024, bitIndex 0x80000000#32) = (0, 0) ∧
    (wordIndex 0x0000401F#32 1024, bitIndex 0x0000401F#32) = (512, 31) := by decide

/-- R184's own values. -/
theorem test_popcountParallel : popcountParallel 0#32 = 0 ∧ popcountParallel 1#32 = 1 ∧ popcountParallel 0xFFFFFFFF#32 = 32 ∧
    popcountParallel 0x80000000#32 = 1 ∧ popcountParallel 0xDEADBEEF#32 = 24 ∧ popcountParallel 0x12345678#32 = 13 := by decide

/-! ## The bus -/

/-- V-B1: a one-byte write is refused and accepts no command. -/
theorem test_byte_write_refused :
    (moved State.reset (.host { write := true, addr := 0x10, wdata := 1, wstrb := 1, size := 0 })).map
      (fun t => (t.responses, t.pending, regs t)) = some ([.busError], none, 0, 0, 0, 0) := by decide

/-- V-B2, V-B3: unaligned accesses are refused. -/
theorem test_unaligned_refused : (moved State.reset (readTurn 0x02)).map State.responses = some [.busError] ∧
    (moved State.reset (writeTurn 0x16 0x12345678)).map (fun t => (t.responses, t.argq)) = some ([.busError], []) := by decide

/-- V-B4: bus lane 0 carries bits 7 to 0, so a little-endian host sees the ID as "1EFB". -/
theorem test_byte_lanes : (List.range 4).map (busLane (State.reset.busRead 0x00)) = [0x31, 0x45, 0x46, 0x42] := by decide

/-- V-B5 and V-E12: reserved offsets read 0 and ignore writes. -/
theorem test_reserved_offset : (moved State.reset (writeTurn 0x80 0xFFFFFFFF)).map (fun t => (regs t, t.responses)) =
      some ((0, 0, 0, 0), [.written]) ∧
    (moved State.reset (readTurn 0x80)).map State.readValues = some [0] ∧
    (moved State.reset (readTurn 0xFC)).map State.readValues = some [0] := by decide

/-- V-Z1, V-E12: the constants after reset; CMD reads 0. -/
theorem test_constants : (moved State.reset (readTurn 0x00)).map State.readValues = some [0x42464531] ∧
    (moved State.reset (readTurn 0x04)).map State.readValues = some [0x01100A08] ∧
    (moved State.reset (readTurn 0x10)).map State.readValues = some [0] := by decide

/-- V-E18: bits 9 and 8 clear, the enables set. -/
theorem test_ctrl_write : (moved State.reset (writeTurn 0x08 0xFFFFFCFF)).map State.ctrlWord = some 3 := by decide

/-- V-E4, V-E5, V-E6: a write dropped while BUSY = 1. -/
theorem test_busy_write :
    (moved (State.reset.latch 0x01100004) (writeTurn 0x10 0x01200004)).map (fun t => (t.pending, regs t)) =
      some (some 0x01100004, 0, 0xC, 0x10, 5) ∧
    (moved (State.reset.latch 0x10100001) (writeTurn 0x14 7)).map regs = some (0, 0xC, 0x14, 5) ∧
    (moved (State.reset.latch 0x05010000) (writeTurn 0x08 0x100)).map regs = some (0, 0xC, 8, 5) := by decide

/-- V-E1: the seventeenth operand. -/
theorem test_arg_overflow : (moved (demo [] (List.replicate 16 1)) (writeTurn 0x14 0x99)).map regs = some (0, 0xB, 0x99, 0x1004) := by
  decide

/-- V-E15: clearing ERR keeps the record. -/
theorem test_clear_errors : (moved (State.reset.failed 0x05 0x01 3) (writeTurn 0x0C 6)).map regs = some (0, 0x105, 3, 0) := by decide

/-- V-Z2: soft reset with other bits set. -/
theorem test_soft_reset : (moved pair (writeTurn 0x08 0x203)).map (fun t => (t.slotAt 1, t.argq, t.ctrlWord)) =
      some (none, [], 0) ∧
    (moved pair (writeTurn 0x08 0x203)).map regs = some (0, 0, 0, 0) := by decide

/-! ## The assembler (R91, R92) -/

theorem test_parse_command : parseLine "  union s3, s1,s2 ; OR".toList = some (.stmt (.cmd (.union 3 1 2))) ∧
    parseLine "construct s9, 0x10".toList = some (.stmt (.cmd (.construct 9 16))) := by decide

theorem test_parse_bus : parseLine "arg 0xDEADBEEF".toList = some (.stmt (.arg 0xDEADBEEF)) ∧
    parseLine "rd ERRCODE".toList = some (.stmt (.rd .errcode)) ∧
    parseLine "wr CTRL, 0x200".toList = some (.stmt (.wr .ctrl 0x200)) ∧ parseLine "; nothing".toList = some .blank := by decide

theorem test_parse_pseudo : parseLine "addh s0, 1, 0x64".toList = some (.pseudo (.addh 0 [1, 0x64])) ∧
    parseLine "clrerr".toList = some (.pseudo .clrerr) := by decide

theorem test_parse_refused : parseLine "arg 4294967296".toList = none ∧ parseLine "hash s16".toList = none ∧
    parseLine "construct s1, 65536".toList = none ∧ parseLine "union s1, s2".toList = none ∧
    parseLine "rd CMD".toList = none ∧ parseLine "addh s0".toList = none := by decide

/-- R92: `loadwv` and `copy`. -/
theorem test_expand : (Pseudo.loadwv 2 3 7).expand 0 = [.arg 7, .cmd (.loadw 2 3), .wait] ∧
    (Pseudo.copy 5 1).expand 0 = [.cmd (.union 5 1 1), .wait] := by decide

/-- A `wait` that finds the command in flight once. -/
theorem test_wait_moves : Stmt.wait.moves 1 = [readTurn 0x0C, .engine, readTurn 0x0C] := by decide

/-- R91, R249: each `wait` has its own number of polls; the second meets BUSY = 0. -/
theorem test_programMoves : programMoves [2] [.cmd (.hash 3), .wait, .wait, .rd .result] =
    [writeTurn 0x10 0x40030000, readTurn 0x0C, readTurn 0x0C, .engine, readTurn 0x0C, .engine, readTurn 0x0C, readTurn 0x18] := by
  decide

/-- R80, R111: an `add` of no values is one ADD of count 0; seventeen values are two ADDs on a queue of sixteen. -/
theorem test_add_statements : (SourceOp.add 1 []).statements Config.reference = [.cmd (.add 1 0), .wait] ∧
    (SourceOp.add 1 (List.replicate 17 5)).statements Config.reference =
      List.replicate 16 (.arg 5) ++ [.cmd (.add 1 16), .wait, .arg 5, .cmd (.add 1 1), .wait] := by decide

/-! ## Witnesses: states and operands that meet the hypotheses of each statement, at the ends of their ranges -/

/-- With these moves to come. -/
def plan (s : State) (ts : List Turn) : State := { s with turns := ts }

/-- A full operand queue. -/
def full : State := demo [] (List.replicate 16 1)

theorem witness_DecodeEncodeRoundTrip : (Instr.reduce 15 15 65535).wellFormed = true ∧ (Instr.hash 0).wellFormed = true := by decide

theorem witness_EncodeDecodeRoundTrip : decode 0x30FFFFFF#32 = .ok (.reduce 15 15 65535) := by decide

theorem witness_WordIsCommandExactlyWhenItMatchesItsRow :
    decode 0x2200F000#32 = .ok (.subset 0 15) ∧ 0x2200F000#32 &&& Opcode.subset.mask = Opcode.subset.pattern := by decide

theorem witness_UnassignedOpcodeRaisesIllegalOpcode :
    (State.reset.latch 0).nextTurn = .engine ∧ (State.reset.latch 0).pending = some 0 ∧
    [0x00#8, 0x06#8, 0x0F#8, 0x12#8, 0x1F#8, 0x23#8, 0x2F#8, 0x31#8, 0x3F#8, 0x42#8, 0xFF#8].all unassignedOpc = true := by
  decide

theorem witness_MustBeZeroBitRaisesReservedField :
    (State.reset.latch 0x01010000).nextTurn = .engine ∧ (State.reset.latch 0x01010000).pending = some 0x01010000 ∧
    [0x01010000#32, 0x04800000#32, 0x20000800#32, 0x22100000#32, 0x02000001#32, 0x41008000#32].all mustBeZeroBroken = true ∧
    fieldOpc 0x01010000#32 = Opcode.construct.opc := by decide

theorem witness_EngineTurnRunsPendingCommand : (pair.latch 0x10100002).nextTurn = .engine ∧
    (pair.latch 0x10100002).pending = some 0x10100002 ∧ decode 0x10100002#32 = .ok (.add 1 2) := by decide

theorem witness_IdleEngineTurnChangesNothing : (plan State.reset [.engine]).nextTurn = .engine ∧
    (plan State.reset [.engine]).pending = none := by decide

/-- Two operands wait and fourteen are pushed, which fills ARGQ. -/
theorem witness_IssuedCommandRunsOnItsOperands : (Instr.add 1 16).wellFormed = true ∧ pair.err = false ∧ pair.pending = none ∧
    pair.argq.length + (List.replicate 14 5#32).length ≤ pair.cfg.argqDepth ∧
    (plan pair ((List.replicate 14 5#32).map (writeTurn 0x14#8) ++ writeTurn 0x10#8 (encode (.add 1 16)) :: .engine :: [])).turns =
      (List.replicate 14 5#32).map (writeTurn 0x14#8) ++ writeTurn 0x10#8 (encode (.add 1 16)) :: .engine :: [] := by decide

/-- Two host moves stand before the engine's. -/
theorem witness_CommandInFlightCompletes :
    (plan (pair.latch 0x10100002) [readTurn 0x0C#8, writeTurn 0x10#8 0, .engine]).pending = some 0x10100002 ∧
    ∀ m ∈ (plan (pair.latch 0x10100002) [readTurn 0x0C#8, writeTurn 0x10#8 0, .engine]).turns, m.isReset = false := by decide

theorem witness_RefusedAccessOnlyAnswersBusError :
    (plan pair [readTurn 0x02]).nextTurn = .host (BusAccess.read 0x02) ∧ (BusAccess.read 0x02).addr.extractLsb' 0 2 ≠ 0#2 ∧
    (let a : BusAccess := { BusAccess.writeWord 0x10 1 with wstrb := 7 }
     (plan pair [.host a]).nextTurn = .host a ∧ a.write = true ∧ a.wstrb ≠ 0xF#4) ∧
    (let a : BusAccess := { BusAccess.read 0x00 with size := 3 }
     (plan pair [.host a]).nextTurn = .host a ∧ a.size ≠ 2#2) := by decide

theorem witness_HostReadReturnsRegister :
    [0x00#8, 0x04#8, 0x08#8, 0x0C#8, 0x10#8, 0x14#8, 0x18#8, 0x1C#8, 0x20#8, 0x24#8, 0xFC#8].all (fun off =>
      decide ((plan pair [readTurn off]).nextTurn = .host (BusAccess.read off)) && (BusAccess.read off).legal &&
        !(BusAccess.read off).write) = true ∧ 0x24 ≤ (0x24#8).toNat := by decide

theorem witness_WriteToOtherOffsetsChangesNothing :
    [0x00#8, 0x04#8, 0x18#8, 0x1C#8, 0x20#8, 0x24#8, 0xFC#8].all (fun off =>
      let a := BusAccess.writeWord off 0xFFFFFFFF
      decide ((plan pair [.host a]).nextTurn = .host a) && a.legal && a.write && decide (a.addr ≠ 0x08#8) &&
        decide (a.addr ≠ 0x0C#8) && decide (a.addr ≠ 0x10#8) && decide (a.addr ≠ 0x14#8)) = true := by decide

theorem witness_CmdWriteIsAcceptedDroppedOrDiscarded :
    (plan pair [writeTurn 0x10#8 7]).nextTurn = writeTurn 0x10#8 7 ∧ (State.reset.failed 1 0 0).err = true ∧
    ((State.reset.latch 0).err = false ∧ (State.reset.latch 0).pending ≠ none) ∧ (pair.err = false ∧ pair.pending = none) := by
  decide

/-- One entry short of full, full, and busy. -/
theorem witness_ArgWriteAppendsOrRaises :
    (plan full [writeTurn 0x14#8 7]).nextTurn = writeTurn 0x14#8 7 ∧
    ((demo [] (List.replicate 15 1)).pending = none ∧ (demo [] (List.replicate 15 1)).argq.length < full.cfg.argqDepth) ∧
    (full.pending = none ∧ full.cfg.argqDepth ≤ full.argq.length) ∧ (full.latch 0).pending ≠ none ∧
    (plan full [readTurn 0x14#8]).nextTurn = readTurn 0x14#8 := by decide

theorem witness_CtrlWriteSetsEnablesAndClearsQueue :
    (plan full [writeTurn 0x08#8 0x103]).nextTurn = writeTurn 0x08#8 0x103 ∧ (0x103#32).getLsbD 9 = false ∧
    ((0x103#32).getLsbD 8 = true ∧ (full.latch 0).pending ≠ none) ∧ full.pending = none ∧
    ((3#32).getLsbD 9 = false ∧ (3#32).getLsbD 8 = false) := by decide

theorem witness_StatusWriteClearsDoneAndErr : (plan full [writeTurn 0x0C#8 6]).nextTurn = writeTurn 0x0C#8 6 := by decide

theorem witness_HardwareResetGivesResetState : (plan (pair.latch 1) [.reset]).nextTurn = .reset := by decide

theorem witness_SoftResetGivesResetState :
    (plan (pair.latch 1) [writeTurn 0x08#8 0x200]).nextTurn = writeTurn 0x08#8 0x200 ∧ (0x200#32).getLsbD 9 = true ∧
    (pair.latch 1).pending ≠ none ∧ (moved (pair.latch 1) (writeTurn 0x08#8 0x200)).map State.pending = some none ∧
    (moved (pair.latch 1) .reset).map State.pending = some none ∧
    (moved (pair.latch 1) .engine).map State.pending = some none := by decide

/-- Each check of R204 as the one that fails. -/
theorem witness_FirstFailingCheckIsReported :
    firstError (.release 8) pair = some ⟨.slotRange, 8⟩ ∧ firstError (.hash 0) pair = some ⟨.slotInvalid, 0⟩ ∧
    firstError (.construct 1 0) pair = some ⟨.invalidSize, 0⟩ ∧ firstError (.construct 1 2048) pair = some ⟨.sizeTooLarge, 2048⟩ ∧
    firstError (.union 3 1 5) pair = some ⟨.sizeMismatch, 0x40008⟩ ∧
    firstError (.reduce 3 1 8) pair = some ⟨.reduceExpand, 0x80004⟩ ∧ firstError (.readw 1 4) pair = some ⟨.wordRange, 4⟩ ∧
    firstError (.add 1 3) pair = some ⟨.argUnderflow, 0x30002⟩ := by decide

/-- Every command at the ends of its operands' ranges. -/
theorem witness_CommandWithoutErrorCompletes :
    [Instr.construct 7 1024, .release 7, .loadw 1 3, .readw 1 3, .getsize 7, .add 7 2, .contains 7 2, .union 7 1 2,
      .intersect 0 1 2, .subset 1 2, .reduce 7 5 8, .hash 7, .density 7].all (fun i => (firstError i pair).isNone) = true := by
  decide

theorem witness_ErrorRecordChangesOnlyAtFirstError : (State.reset.latch 0).nextTurn.isReset = false ∧
    (ran State.reset 0).map State.errCode = some 1 ∧ State.reset.errCode ≠ 1 := by decide

theorem witness_StatusFlagsChangeOnlyAsListed : (plan pair [writeTurn 0x0C#8 6]).nextTurn.isReset = false ∧
    ((State.reset.failed 1 0 0).done = true ∧
      (moved (State.reset.failed 1 0 0) (writeTurn 0x0C#8 2)).map State.done = some false) ∧
    ((State.reset.failed 1 0 0).err = true ∧
      (moved (State.reset.failed 1 0 0) (writeTurn 0x0C#8 4)).map State.err = some false) ∧
    (State.reset.done = false ∧ (ran State.reset 0x02000000).map State.done = some true) ∧
    (pair.err = false ∧ (ran pair 0).map State.err = some true ∧ (ran pair 0x10100003).map State.err = some true) ∧
    ((pair.latch 0).err = false ∧ (moved (pair.latch 0) (writeTurn 0x10#8 0)).map State.err = some true ∧
      (moved (pair.latch 0) (writeTurn 0x14#8 0)).map State.err = some true ∧
      (moved (pair.latch 0) (writeTurn 0x08#8 0x100)).map State.err = some true) ∧
    (full.err = false ∧ (moved full (writeTurn 0x14#8 0)).map State.err = some true) := by decide

theorem witness_ResultChangesOnlyAtErrorFreeCompletion : (pair.withFetchWord 32 0x05050000).nextTurn.isReset = false ∧
    (ran pair 0x05050000).map State.result = some 8 ∧ pair.result ≠ 8 := by decide

theorem witness_IrqIsTheEnabledPendingLevel :
    (plan pair [writeTurn 0x0C#8 6]).nextTurn = writeTurn 0x0C#8 6 ∧ (6#32).getLsbD 1 = true ∧ (6#32).getLsbD 2 = true ∧
    (plan pair [writeTurn 0x08#8 0]).nextTurn = writeTurn 0x08#8 0 ∧ (0#32).getLsbD 8 = false ∧ (0#32).getLsbD 0 = false ∧
    (0#32).getLsbD 1 = false ∧ pair.pending = none := by decide

theorem witness_HostAccessWhileBusy : (plan (pair.latch 0) [writeTurn 0x0C#8 6]).nextTurn = .host (BusAccess.writeWord 0x0C#8 6) ∧
    (pair.latch 0).pending ≠ none ∧ (BusAccess.writeWord 0x0C#8 6).allowedWhileBusy = true ∧
    ([BusAccess.writeWord 0x10#8 6, BusAccess.writeWord 0x14#8 6, BusAccess.writeWord 0x08#8 0x100].all fun a =>
      !a.allowedWhileBusy && !(a.addr == 0x08#8 && a.wdata.getLsbD 9)) = true := by decide

theorem witness_SlotsChangeOnlyByTheirCommands : (pair.withFetchWord 32 0x10100002).nextTurn.isReset = false ∧
    (ran pair 0x10720001).isSome = true ∧
    (ran pair 0x03100000).map (fun t => t.slotAt 1) = some (some ⟨[0, 0, 0, 0x10]⟩) ∧
    pair.slotAt 1 ≠ some ⟨[0, 0, 0, 0x10]⟩ ∧
    (ran pair 0x30550002).map (fun t => (t.slotAt 5).map BloomFilter.size) = some (some 2) ∧
    (pair.slotAt 5).map BloomFilter.size = some 8 := by decide

theorem witness_ReadingCommandsFrame : (∀ d, writesSlot d (.contains 1 2) = false) ∧ ∃ t, exec (.contains 1 2) pair = .next t :=
  ⟨fun _ => rfl, exec_total _ _⟩

theorem witness_InstallingCommandsFrame :
    [(Instr.construct 7 1), .release 7, .union 7 1 2, .intersect 7 1 2, .reduce 7 5 1].all (endsFilter 7) = true ∧
    ∃ t, exec (.reduce 7 5 1) pair = .next t := ⟨by decide, exec_total _ _⟩

/-- Word 0 of slot 1 is outside LOADW 1, 3; word 1 of slot 1 is one that neither 0 nor 0x64 selects. -/
theorem witness_WordWritingCommandsFrame :
    (∃ t, exec (.loadw 1 3) pair = .next t) ∧ (∃ t, exec (.add 1 2) pair = .next t) ∧ 0 ≠ 3 ∧
    ∀ h ∈ pair.argq.take 2, ∀ f, pair.slotAt 1 = some f → 1 ≠ wordIndex h f.size := by
  refine ⟨exec_total _ _, exec_total _ _, by decide, fun h hh f hf => ?_⟩
  have e : pair.slotAt 1 = some ⟨[1, 0, 0, 0x10]⟩ := by decide
  rw [e] at hf
  cases hf
  have hh : h ∈ [0#32, 0x64#32] := hh
  simp only [List.mem_cons, List.not_mem_nil, or_false] at hh
  rcases hh with rfl | rfl <;> decide

theorem witness_ResetMeetsStateInvariant : Config.reference.legal = true ∧
    ({ nslot := 4, log2MaxWords := 5, argqDepth := 8 } : Config).legal = true ∧
    ({ nslot := 16, log2MaxWords := 15, argqDepth := 255 } : Config).legal = true := by decide

theorem witness_StepKeepsStateInvariant : pair.wf = true ∧ ∃ t, step pair = .next t := ⟨by decide, _, rfl⟩

theorem witness_StepKeepsParameters : ∃ t, step pair = .next t := ⟨_, rfl⟩

theorem witness_ConstructMakesZeroFilter : pair.wf = true ∧ 7 < pair.cfg.nslot ∧ (∃ k, 1024 = 2 ^ k) ∧ 1024 ≤ pair.cfg.maxWords :=
  ⟨by decide, by decide, ⟨10, by decide⟩, by decide⟩

theorem witness_ReleaseMakesSlotInvalid : pair.wf = true ∧ 7 < pair.cfg.nslot := by decide

theorem witness_LoadwWritesOneWord : pair.wf = true ∧ 1 < pair.cfg.nslot ∧ pair.slotAt 1 = some ⟨[1, 0, 0, 0x10]⟩ ∧
    3 < BloomFilter.size ⟨[1, 0, 0, 0x10]⟩ ∧ pair.argq = 0 :: [0x64] := by decide

theorem witness_ReadwReturnsTheWord : 1 < pair.cfg.nslot ∧ pair.slotAt 1 = some ⟨[1, 0, 0, 0x10]⟩ ∧
    [1, 0, 0, (0x10 : Word)][3]? = some 0x10 := by decide

theorem witness_GetsizeReturnsTheWordCount : pair.wf = true ∧ 7 < pair.cfg.nslot ∧ pair.slotAt 7 = some ⟨[5]⟩ := by decide

theorem witness_AddSetsTheBitsOfItsOperands : pair.wf = true ∧ 7 < pair.cfg.nslot ∧ pair.slotAt 7 = some ⟨[5]⟩ ∧
    2 ≤ pair.argq.length := by decide

theorem witness_ContainsTestsTheBitsOfItsOperands : pair.wf = true ∧ 1 < pair.cfg.nslot ∧
    pair.slotAt 1 = some ⟨[1, 0, 0, 0x10]⟩ ∧ 2 ≤ pair.argq.length ∧ 0 ≤ pair.argq.length := by decide

/-- For UNION and INTERSECT, also with the destination a source. -/
theorem witness_UnionIsTheWordwiseOr : pair.wf = true ∧ 7 < pair.cfg.nslot ∧ 1 < pair.cfg.nslot ∧ 2 < pair.cfg.nslot ∧
    pair.slotAt 1 = some ⟨[1, 0, 0, 0x10]⟩ ∧ pair.slotAt 2 = some ⟨[3, 0x80000000, 0, 0]⟩ ∧
    BloomFilter.size ⟨[1, 0, 0, 0x10]⟩ = BloomFilter.size ⟨[3, 0x80000000, 0, 0]⟩ := by decide

theorem witness_IntersectIsTheWordwiseAnd : pair.wf = true ∧ 2 < pair.cfg.nslot ∧ 1 < pair.cfg.nslot ∧
    pair.slotAt 1 = some ⟨[1, 0, 0, 0x10]⟩ ∧ pair.slotAt 2 = some ⟨[3, 0x80000000, 0, 0]⟩ ∧
    BloomFilter.size ⟨[1, 0, 0, 0x10]⟩ = BloomFilter.size ⟨[3, 0x80000000, 0, 0]⟩ := by decide

theorem witness_SubsetComparesEveryBit : 7 < pair.cfg.nslot ∧ pair.slotAt 7 = some ⟨[5]⟩ ∧ 1 < pair.cfg.nslot ∧
    2 < pair.cfg.nslot ∧ pair.slotAt 1 = some ⟨[1, 0, 0, 0x10]⟩ ∧ pair.slotAt 2 = some ⟨[3, 0x80000000, 0, 0]⟩ := by decide

theorem witness_ReduceFoldsTheWords : pair.wf = true ∧ 7 < pair.cfg.nslot ∧ 5 < pair.cfg.nslot ∧
    pair.slotAt 5 = some ⟨[1, 2, 4, 8, 0x10, 0x20, 0x40, 0x80]⟩ ∧ (∃ k, 8 = 2 ^ k) ∧ (∃ k, 1 = 2 ^ k) ∧
    8 ≤ BloomFilter.size ⟨[1, 2, 4, 8, 0x10, 0x20, 0x40, 0x80]⟩ :=
  ⟨by decide, by decide, by decide, by decide, ⟨3, by decide⟩, ⟨0, by decide⟩, by decide⟩

theorem witness_HashIsTheParityOfEachBit : 7 < pair.cfg.nslot ∧ pair.slotAt 7 = some ⟨[5]⟩ := by decide

theorem witness_DensityCountsTheSetBits : pair.wf = true ∧ 7 < pair.cfg.nslot ∧ pair.slotAt 7 = some ⟨[5]⟩ := by decide

theorem witness_HashValueSelectsBitModuloTotalBits : (∃ k, 1 = 2 ^ k) ∧ (∃ k, 32768 = 2 ^ k) ∧
    ∃ k, BloomFilter.size ⟨[5]⟩ = 2 ^ k := ⟨⟨0, by decide⟩, ⟨15, by decide⟩, ⟨0, by decide⟩⟩

/-- A run of one step, the engine's with nothing in flight, that loses nothing. -/
theorem witness_NoFalseNegatives : pair.wf = true ∧ 1 < pair.cfg.nslot ∧ pair.slotAt 1 = some ⟨[1, 0, 0, 0x10]⟩ ∧
    2 ≤ pair.argq.length ∧ 0x64#32 ∈ pair.argq.take 2 ∧
    (ran pair 0x10100002).map (State.losesBit 1 ((0x64#32).toNat % (32 * 4))) = some false := by decide

theorem witness_AddIsOrderFreeIdempotentAndMonotone : isPow2 (BloomFilter.size ⟨[5]⟩) = true ∧
    BloomFilter.size ⟨[5]⟩ ≤ 32768 ∧ List.Perm [0#32, 0x64#32] [0x64#32, 0#32] := ⟨by decide, by decide, by decide⟩

/-- CONTAINS of 0 and 0x64 gives 1 on slot 1. -/
theorem witness_UnionContainsWhatEitherContains : pair.wf = true ∧ 7 < pair.cfg.nslot ∧ 1 < pair.cfg.nslot ∧ 2 < pair.cfg.nslot ∧
    pair.slotAt 1 = some ⟨[1, 0, 0, 0x10]⟩ ∧ pair.slotAt 2 = some ⟨[3, 0x80000000, 0, 0]⟩ ∧ 2 ≤ pair.argq.length ∧
    (ran pair 0x11010002).map State.result = some 1 := by decide

theorem witness_IntersectionIsSubsetOfBoth : pair.wf = true ∧ 7 < pair.cfg.nslot ∧ 1 < pair.cfg.nslot ∧ 2 < pair.cfg.nslot ∧
    7 ≠ 1 ∧ 7 ≠ 2 ∧ pair.slotAt 1 = some ⟨[1, 0, 0, 0x10]⟩ ∧ pair.slotAt 2 = some ⟨[3, 0x80000000, 0, 0]⟩ := by decide

theorem witness_SubsetIsAPartialOrder :
    BloomFilter.size ⟨[1]⟩ = BloomFilter.size ⟨[3]⟩ ∧ BloomFilter.size ⟨[3]⟩ = BloomFilter.size ⟨[7]⟩ ∧
    BloomFilter.subset ⟨[1]⟩ ⟨[3]⟩ = true ∧ BloomFilter.subset ⟨[3]⟩ ⟨[7]⟩ = true ∧ BloomFilter.subset ⟨[3]⟩ ⟨[3]⟩ = true := by decide

theorem witness_UnionAndIntersectionAreLatticeOperations :
    BloomFilter.size ⟨[1]⟩ = BloomFilter.size ⟨[3]⟩ ∧ BloomFilter.size ⟨[3]⟩ = BloomFilter.size ⟨[7]⟩ := by decide

theorem witness_SummariesOfUnionAndIntersection : BloomFilter.size ⟨[1]⟩ = BloomFilter.size ⟨[3]⟩ ∧
    BloomFilter.subset ⟨[1]⟩ ⟨[3]⟩ = true ∧ density (BloomFilter.zero 4).words = 0 := by decide

/-- F and Gx of V-R5: an 8-word filter and its fold to 4 words, and the values of F in two groupings. -/
theorem witness_FoldOfAddedFilterIsTheSmallFilter :
    (let s := demo [(1, [0, 8, 0, 0, 0, 0, 0, 0x80]), (2, [0, 8, 0, 0x80])] [0x2A, 0x391]
     s.wf = true ∧ 1 < s.cfg.nslot ∧ 2 < s.cfg.nslot ∧ s.slotAt 1 = some ⟨[0, 8, 0, 0, 0, 0, 0, 0x80]⟩ ∧
      s.slotAt 2 = some ⟨[0, 8, 0, 0x80]⟩ ∧ 2 ≤ s.argq.length ∧ 7 < s.cfg.nslot) ∧
    BloomFilter.fold ⟨[0, 8, 0, 0, 0, 0, 0, 0x80]⟩ 4 = ⟨[0, 8, 0, 0x80]⟩ ∧ isPow2 8 = true ∧ isPow2 4 = true ∧
    BloomFilter.getBit ⟨[0, 8, 0, 0, 0, 0, 0, 0x80]⟩ 0x123 = true ∧
    (let s := demo [(1, [[0x23#32], [0xE7#32]].foldl BloomFilter.setBits (BloomFilter.zero 8) |>.words)] []
     s.wf = true ∧ s.slotAt 1 = some ([[0x23#32], [0xE7#32]].foldl BloomFilter.setBits (BloomFilter.zero 8))) ∧
    [[0x23#32], [0xE7#32]].flatten.Perm [[0xE7#32, 0x23#32], []].flatten ∧ 8 ≤ Config.reference.maxWords := by decide

theorem witness_FoldAlgebra : isPow2 (BloomFilter.size ⟨[1, 2, 4, 8]⟩) = true ∧ isPow2 4 = true ∧ isPow2 1 = true ∧
    BloomFilter.size ⟨[3, 2, 4, 8]⟩ = BloomFilter.size ⟨[1, 2, 4, 8]⟩ ∧ BloomFilter.subset ⟨[1, 2, 4, 8]⟩ ⟨[3, 2, 4, 8]⟩ = true ∧
    (BloomFilter.zero 16).size = 16 := by decide

end Sys2Proof.Tests
end

section
/-! PROOFS. The invariant `State.wf`: its parts, and that reset meets it (R43). -/

namespace Sys2Proof.Machine

/-- The parts of the invariant (R6, R20, R21, R24, R38). -/
theorem State.wf_iff {s : State} :
    s.wf = true ↔ s.cfg.legal = true ∧ s.slots.wf s.cfg = true ∧ s.argCount ≤ s.cfg.argqDepth ∧ s.errRecordWf = true := by
  simp [State.wf, and_assoc]

/-- An error record in which nothing was ever recorded is well formed (R38). -/
theorem State.errRecordWf_of_cleared {s : State} (hcode : s.errCode = 0#32) (hinfo : s.errInfo = 0#32) (herr : s.err = false) :
    s.errRecordWf = true := by
  simp [State.errRecordWf, State.errCodeField, hcode, hinfo, herr]

/-- The reset state of every legal block meets the invariant: its storage is empty, no operand is queued and no error is
recorded (R43). -/
theorem State.wf_resetWith {c : Config} (h : c.legal = true) : (State.resetWith c).wf = true :=
  State.wf_iff.mpr ⟨h, Memory.wf_reset c, Nat.zero_le _, State.errRecordWf_of_cleared rfl rfl rfl⟩

/-- The CONFIG register reads the parameters (R34, R60). -/
theorem State.busRead_config (s : State) : s.busRead 0x04#8 = configWord s.cfg := rfl

/-- Settles O33: the invariant by its parts at reset; the reference parameters of R6 are legal and stand in CONFIG. -/
theorem resetMeetsStateInvariant : Obligations.ResetMeetsStateInvariant := by
  refine ⟨fun _ => State.wf_resetWith, rfl, by decide, ?_, rfl, rfl⟩
  calc State.reset.busRead 0x04#8 = configWord Config.reference := State.busRead_config _
    _ = 0x01100A08#32 := by decide

end Sys2Proof.Machine
end

section
/-! PROOFS. The rule of a command as a function of the command: its checks run in the order of R204, and what it leaves when
all of them pass. -/

namespace Sys2Proof.Machine

/-- The rule of each command without its completion: the checks of R202 and then its writes. -/
def effect : Instr → State → Except CmdError State
  | .construct d n => constructEffect d n
  | .release d => releaseEffect d
  | .loadw d i => loadwEffect d i
  | .readw a i => readwEffect a i
  | .getsize a => getsizeEffect a
  | .add d n => addEffect d n
  | .contains a n => containsEffect a n
  | .union d a b => unionEffect d a b
  | .intersect d a b => intersectEffect d a b
  | .subset a b => subsetEffect a b
  | .reduce d a m => reduceEffect d a m
  | .hash a => hashEffect a
  | .density a => densityEffect a

/-- The meaning of a command is its rule and then the completion of R29. -/
theorem exec_eq_finish (i : Instr) (s : State) : exec i s = s.finish i.opcode.opc (effect i s) := by
  cases i <;> rfl

variable {s t u : State} {i : Instr}

/-! ## The checks of a rule are those of R202, in the order of R204 -/

/-- A computation runs these checks first: it ends in the error of the first one that fails, and otherwise succeeds. -/
def RunsChecks {α : Type} (s : State) (cs : List Check) (x : Except CmdError α) : Prop :=
  (∃ e, (cs.find? (Check.fails s)).map (Check.error s) = some e ∧ x = .error e) ∨
    ((cs.find? (Check.fails s)).map (Check.error s) = none ∧ ∃ a, x = .ok a)

namespace RunsChecks

variable {α β : Type} {cs : List Check} {x : Except CmdError Unit} {k : Unit → Except CmdError α}

theorem ok (a : α) : RunsChecks s [] (.ok a) := .inr ⟨rfl, a, rfl⟩

/-- One check more in front. -/
theorem guard {c : Check} (hx : x = if c.fails s then .error (c.error s) else .ok ()) (hk : RunsChecks s cs (k ())) :
    RunsChecks s (c :: cs) (x >>= k) := by
  subst hx
  unfold RunsChecks
  rw [find_error_cons]
  cases hc : c.fails s with
  | true => exact .inl ⟨_, rfl, rfl⟩
  | false => exact hk

/-- `CheckRange` in front (R100). -/
theorem range {n : Nat} (hk : RunsChecks s cs (k ())) : RunsChecks s (.slotRange n :: cs) (checkRange s n >>= k) :=
  guard (checkRange_spec n) hk

/-- `CheckValid` in front (R100): the rest may use the filter it found. -/
theorem valid {n : Nat} {k : BloomFilter → Except CmdError α} (hk : ∀ f, s.slotAt n = some f → RunsChecks s cs (k f)) :
    RunsChecks s (.slotInvalid n :: cs) (checkValid s n >>= k) := by
  obtain ⟨hc, hx⟩ | ⟨hc, f, hf, hx⟩ := checkValid_spec (s := s) n
  · exact .inl ⟨(Check.slotInvalid n).error s, by rw [find_error_cons, if_pos hc], by rw [hx]; rfl⟩
  · unfold RunsChecks
    rw [find_error_cons, hc, hx]
    exact hk f hf

/-- `SizeCheck` in front (R100): two checks. -/
theorem size {n : Nat} (hk : RunsChecks s cs (k ())) :
    RunsChecks s (.invalidSize n :: .sizeTooLarge n :: cs) (sizeCheck s n >>= k) := by
  unfold RunsChecks
  rw [sizeCheck_spec, find_error_cons, find_error_cons]
  cases (Check.invalidSize n).fails s with
  | true => exact .inl ⟨_, rfl, rfl⟩
  | false =>
    cases (Check.sizeTooLarge n).fails s with
    | true => exact .inl ⟨_, rfl, rfl⟩
    | false => exact hk

/-- A last part without checks. -/
theorem map {x : Except CmdError α} (h : RunsChecks s cs x) (g : α → β) : RunsChecks s cs (x >>= fun a => .ok (g a)) := by
  obtain ⟨e, he, rfl⟩ | ⟨hn, a, rfl⟩ := h
  · exact .inl ⟨e, he, rfl⟩
  · exact .inr ⟨hn, g a, rfl⟩

end RunsChecks

open RunsChecks in
/-- The checks that UNION and INTERSECT share (R140 to R142). -/
theorem pairOperands_runsChecks (d a b : Nat) : RunsChecks s
    [.slotRange d, .slotRange a, .slotRange b, .slotInvalid a, .slotInvalid b, .sizeMismatch a b] (pairOperands d a b s) :=
  range <| range <| range <| valid fun _ ha => valid fun _ hb => guard (pairCheck_spec ha hb) <| ok _

open RunsChecks in
/-- Every rule runs the checks that R202 lists for it, in that order. -/
theorem effect_runsChecks (i : Instr) (s : State) : RunsChecks s (checksOf i) (effect i s) := by
  cases i with
  | construct d n => exact range <| size <| ok _
  | release d => exact range <| ok _
  | loadw d i => exact range <| valid fun _ hf => guard (indexCheck_spec hf i) <| guard (argCheck_spec 1) <| ok _
  | readw a i => exact range <| valid fun _ hf => guard (indexCheck_spec hf i) <| ok _
  | getsize a => exact range <| valid fun _ _ => ok _
  | add d n => exact range <| valid fun _ _ => guard (argCheck_spec n) <| ok _
  | contains a n => exact range <| valid fun _ _ => guard (argCheck_spec n) <| ok _
  | union d a b => exact (pairOperands_runsChecks d a b).map _
  | intersect d a b => exact (pairOperands_runsChecks d a b).map _
  | subset a b => exact range <| range <| valid fun _ ha => valid fun _ hb => guard (pairCheck_spec ha hb) <| ok _
  | reduce d a m => exact range <| range <| valid fun _ hf => size <| guard (shrinkCheck_spec hf m) <| ok _
  | hash a => exact range <| valid fun _ _ => ok _
  | density a => exact range <| valid fun _ _ => ok _

/-- A rule ends in the error of the first check that fails (R204), and succeeds when none does. -/
theorem effect_cases (i : Instr) (s : State) :
    (∃ e, firstError i s = some e ∧ effect i s = .error e) ∨ (firstError i s = none ∧ ∃ u, effect i s = .ok u) :=
  effect_runsChecks i s

/-- Everything a command can do: complete with its rule's writes when no check fails, and otherwise record the error of the
first that does (R203). -/
theorem exec_cases (h : exec i s = .next t) :
    (firstError i s = none ∧ ∃ u, effect i s = .ok u ∧ t = u.complete) ∨
      ∃ e, firstError i s = some e ∧ t = s.failed e.code.byte i.opcode.opc e.info := by
  rw [exec_eq_finish] at h
  obtain ⟨e, he, hx⟩ | ⟨hn, u, hu⟩ := effect_cases i s
  · rw [hx, finish_error, recordError_complete] at h
    cases h
    exact .inr ⟨e, he, rfl⟩
  · rw [hu, finish_ok] at h
    cases h
    exact .inl ⟨hn, u, hu, rfl⟩

/-! ## What a rule leaves when its checks pass -/

/-- Going on after a condition that is required. -/
theorem require_bind_eq_ok {α : Type} {p : Prop} [Decidable p] {e : CmdError} {k : Unit → Except CmdError α} {r : α} :
    ((if p then .ok () else .error e) >>= k) = .ok r ↔ p ∧ k () = .ok r := by
  split <;> simp_all

section
variable {α : Type} {k : Unit → Except CmdError α} {r : α}

theorem checkRange_bind_eq_ok {n : Nat} : (checkRange s n >>= k) = .ok r ↔ n < s.cfg.nslot ∧ k () = .ok r :=
  require_bind_eq_ok

theorem checkValid_bind_eq_ok {n : Nat} {k : BloomFilter → Except CmdError α} :
    (checkValid s n >>= k) = .ok r ↔ ∃ f, s.slotAt n = some f ∧ k f = .ok r := by
  unfold checkValid
  cases s.slotAt n <;> simp

theorem sizeCheck_bind_eq_ok {n : Nat} :
    (sizeCheck s n >>= k) = .ok r ↔ isPow2 n = true ∧ n ≤ s.cfg.maxWords ∧ k () = .ok r := by
  unfold sizeCheck
  cases isPow2 n with
  | true => simpa using require_bind_eq_ok
  | false => simp

theorem argCheck_bind_eq_ok {n : Nat} : (argCheck s n >>= k) = .ok r ↔ n ≤ s.argCount ∧ k () = .ok r := by
  unfold argCheck
  split <;> simp_all

theorem indexCheck_bind_eq_ok {f : BloomFilter} {n : Nat} : (indexCheck f n >>= k) = .ok r ↔ n < f.size ∧ k () = .ok r :=
  require_bind_eq_ok

theorem pairCheck_bind_eq_ok {fa fb : BloomFilter} :
    (pairCheck fa fb >>= k) = .ok r ↔ fa.size = fb.size ∧ k () = .ok r :=
  require_bind_eq_ok

theorem shrinkCheck_bind_eq_ok {f : BloomFilter} {m : Nat} :
    (shrinkCheck f m >>= k) = .ok r ↔ m ≤ f.size ∧ k () = .ok r :=
  require_bind_eq_ok

theorem except_pure_eq_ok {r' : α} : (pure r : Except CmdError α) = .ok r' ↔ r' = r := by
  simp [pure, Except.pure, eq_comm]

end

theorem constructEffect_ok {d n : Nat} (h : constructEffect d n s = .ok u) :
    isPow2 n = true ∧ n ≤ s.cfg.maxWords ∧ u = (s.putSlot d (some (.zero n))).setResultSlot d := by
  simp only [constructEffect, checkRange_bind_eq_ok, sizeCheck_bind_eq_ok, except_pure_eq_ok] at h
  exact h.2

theorem releaseEffect_ok {d : Nat} (h : releaseEffect d s = .ok u) : u = (s.putSlot d none).setResultSlot d := by
  simp only [releaseEffect, checkRange_bind_eq_ok, except_pure_eq_ok] at h
  exact h.2

theorem loadwEffect_ok {d n : Nat} (h : loadwEffect d n s = .ok u) : ∃ f, s.slotAt d = some f ∧
    u = (s.argPop.putSlot d (some { words := f.words.set n s.argFront })).setResultSlot d := by
  simp only [loadwEffect, checkRange_bind_eq_ok, checkValid_bind_eq_ok, indexCheck_bind_eq_ok, argCheck_bind_eq_ok,
    except_pure_eq_ok] at h
  obtain ⟨-, f, hf, -, -, hu⟩ := h
  exact ⟨f, hf, hu⟩

theorem addEffect_ok {d n : Nat} (h : addEffect d n s = .ok u) : ∃ f, s.slotAt d = some f ∧
    u = ((s.argDrop n).putSlot d (some (f.setBits (s.argFirst n)))).setResultSlot d := by
  simp only [addEffect, checkRange_bind_eq_ok, checkValid_bind_eq_ok, argCheck_bind_eq_ok, except_pure_eq_ok] at h
  obtain ⟨-, f, hf, -, hu⟩ := h
  exact ⟨f, hf, hu⟩

theorem pairOperands_ok_inv {d a b : Nat} {p : BloomFilter × BloomFilter} (h : pairOperands d a b s = .ok p) :
    s.slotAt a = some p.1 ∧ s.slotAt b = some p.2 ∧ p.1.size = p.2.size := by
  simp only [pairOperands, checkRange_bind_eq_ok, checkValid_bind_eq_ok, pairCheck_bind_eq_ok, except_pure_eq_ok] at h
  obtain ⟨-, -, -, fa, ha, fb, hb, hs, rfl⟩ := h
  exact ⟨ha, hb, hs⟩

theorem unionEffect_ok {d a b : Nat} (h : unionEffect d a b s = .ok u) : ∃ fa fb, s.slotAt a = some fa ∧
    fa.size = fb.size ∧ u = (s.putSlot d (some (fa.union fb))).setResultSlot d := by
  simp only [unionEffect, except_bind_eq_ok, except_pure_eq_ok] at h
  obtain ⟨p, hp, hu⟩ := h
  obtain ⟨ha, -, hs⟩ := pairOperands_ok_inv hp
  exact ⟨p.1, p.2, ha, hs, hu⟩

theorem intersectEffect_ok {d a b : Nat} (h : intersectEffect d a b s = .ok u) : ∃ fa fb, s.slotAt a = some fa ∧
    fa.size = fb.size ∧ u = (s.putSlot d (some (fa.inter fb))).setResultSlot d := by
  simp only [intersectEffect, except_bind_eq_ok, except_pure_eq_ok] at h
  obtain ⟨p, hp, hu⟩ := h
  obtain ⟨ha, -, hs⟩ := pairOperands_ok_inv hp
  exact ⟨p.1, p.2, ha, hs, hu⟩

theorem reduceEffect_ok {d a m : Nat} (h : reduceEffect d a m s = .ok u) : ∃ f : BloomFilter, isPow2 m = true ∧
    m ≤ s.cfg.maxWords ∧ u = (s.putSlot d (some (f.fold m))).setResultSlot d := by
  simp only [reduceEffect, checkRange_bind_eq_ok, checkValid_bind_eq_ok, sizeCheck_bind_eq_ok, shrinkCheck_bind_eq_ok,
    except_pure_eq_ok] at h
  obtain ⟨-, -, f, -, hp, hm, -, hu⟩ := h
  exact ⟨f, hp, hm, hu⟩

theorem BloomFilter.wf_union {c : Config} {fa fb : BloomFilter} (h : fa.wf c = true) (hs : fa.size = fb.size) :
    (fa.union fb).wf c = true := by
  simpa [BloomFilter.wf, ← hs] using h

theorem BloomFilter.wf_inter {c : Config} {fa fb : BloomFilter} (h : fa.wf c = true) (hs : fa.size = fb.size) :
    (fa.inter fb).wf c = true := by
  simpa [BloomFilter.wf, ← hs] using h

/-- The number of operand-queue entries a command consumes (R108, R111, R112). -/
def operandsTaken : Instr → Nat
  | .loadw _ _ => 1
  | .add _ n => n
  | .contains _ n => n
  | _ => 0

theorem argPop_eq_argDrop (s : State) : s.argPop = s.argDrop 1 := by
  simp [State.argPop, State.argDrop]

/-- Everything a rule whose checks pass can write. It reads, and then only RESULT changes; or it installs a filter of a legal
size or releases one; or it rewrites words of the filter in its slot, whose size stays (R22). The operands it takes leave
ARGQ. -/
theorem effect_ok_cases (h : effect i s = .ok u) :
    ((∀ d, writesSlot d i = false) ∧ ∃ w, u = (s.argDrop (operandsTaken i)).setResult w) ∨
    (operandsTaken i = 0 ∧ ∃ d v, endsFilter d i = true ∧ u = (s.putSlot d v).setResultSlot d ∧
      (s.slots.wf s.cfg = true → ∀ f, v = some f → f.wf s.cfg = true)) ∨
    ((∀ d, endsFilter d i = false) ∧ ∃ d f g, writesSlot d i = true ∧ s.slotAt d = some f ∧ g.size = f.size ∧
      u = ((s.argDrop (operandsTaken i)).putSlot d (some g)).setResultSlot d) := by
  cases i with
  | construct d n =>
    obtain ⟨hp, hm, hu⟩ := constructEffect_ok h
    refine .inr (.inl ⟨rfl, d, _, by simp [endsFilter], hu, ?_⟩)
    rintro - f ⟨⟩
    simp [BloomFilter.wf, hp, hm]
  | release d => exact .inr (.inl ⟨rfl, d, _, by simp [endsFilter], releaseEffect_ok h, by simp⟩)
  | loadw d n =>
    obtain ⟨f, hf, hu⟩ := loadwEffect_ok h
    rw [argPop_eq_argDrop] at hu
    exact .inr (.inr ⟨fun _ => rfl, d, f, _, by simp [writesSlot], hf, by simp [BloomFilter.size], hu⟩)
  | readw a n =>
    simp only [effect, readwEffect, checkRange_bind_eq_ok, checkValid_bind_eq_ok, indexCheck_bind_eq_ok,
      except_pure_eq_ok] at h
    obtain ⟨-, f, -, -, hu⟩ := h
    exact .inl ⟨fun _ => rfl, _, hu⟩
  | getsize a =>
    simp only [effect, getsizeEffect, checkRange_bind_eq_ok, checkValid_bind_eq_ok, except_pure_eq_ok] at h
    obtain ⟨-, f, -, hu⟩ := h
    exact .inl ⟨fun _ => rfl, _, hu⟩
  | add d n =>
    obtain ⟨f, hf, hu⟩ := addEffect_ok h
    exact .inr (.inr ⟨fun _ => rfl, d, f, _, by simp [writesSlot], hf, by simp, hu⟩)
  | contains a n =>
    simp only [effect, containsEffect, checkRange_bind_eq_ok, checkValid_bind_eq_ok, argCheck_bind_eq_ok,
      except_pure_eq_ok] at h
    obtain ⟨-, f, -, -, hu⟩ := h
    exact .inl ⟨fun _ => rfl, _, hu⟩
  | union d a b =>
    obtain ⟨fa, fb, ha, hs, hu⟩ := unionEffect_ok h
    refine .inr (.inl ⟨rfl, d, _, by simp [endsFilter], hu, ?_⟩)
    rintro hw f ⟨⟩
    exact BloomFilter.wf_union (Memory.filter_wf hw ha) hs
  | intersect d a b =>
    obtain ⟨fa, fb, ha, hs, hu⟩ := intersectEffect_ok h
    refine .inr (.inl ⟨rfl, d, _, by simp [endsFilter], hu, ?_⟩)
    rintro hw f ⟨⟩
    exact BloomFilter.wf_inter (Memory.filter_wf hw ha) hs
  | subset a b =>
    simp only [effect, subsetEffect, checkRange_bind_eq_ok, checkValid_bind_eq_ok, pairCheck_bind_eq_ok,
      except_pure_eq_ok] at h
    obtain ⟨-, -, fa, -, fb, -, -, hu⟩ := h
    exact .inl ⟨fun _ => rfl, _, hu⟩
  | reduce d a m =>
    obtain ⟨f, hp, hm, hu⟩ := reduceEffect_ok h
    refine .inr (.inl ⟨rfl, d, _, by simp [endsFilter], hu, ?_⟩)
    rintro - g ⟨⟩
    simp [BloomFilter.wf, hp, hm]
  | hash a =>
    simp only [effect, hashEffect, checkRange_bind_eq_ok, checkValid_bind_eq_ok, except_pure_eq_ok] at h
    obtain ⟨-, f, -, hu⟩ := h
    exact .inl ⟨fun _ => rfl, _, hu⟩
  | density a =>
    simp only [effect, densityEffect, checkRange_bind_eq_ok, checkValid_bind_eq_ok, except_pure_eq_ok] at h
    obtain ⟨-, f, -, hu⟩ := h
    exact .inl ⟨fun _ => rfl, _, hu⟩

/-- A rule whose checks pass writes slot storage, ARGQ and RESULT only. -/
theorem effect_ok_frame (h : effect i s = .ok u) : u = { s with slots := u.slots, argq := u.argq, result := u.result } := by
  obtain ⟨-, w, rfl⟩ | ⟨-, d, v, -, rfl, -⟩ | ⟨-, d, f, g, -, -, -, rfl⟩ := effect_ok_cases h <;> rfl

/-- The operands of a command leave the front of ARGQ. -/
theorem effect_ok_argq (h : effect i s = .ok u) : u.argq = s.argq.drop (operandsTaken i) := by
  obtain ⟨-, w, rfl⟩ | ⟨h0, d, v, -, rfl, -⟩ | ⟨-, d, f, g, -, -, -, rfl⟩ := effect_ok_cases h
  · rfl
  · rw [h0]; rfl
  · rfl

/-- A rule keeps slot storage canonical (R20, R21). -/
theorem effect_ok_slots_wf (h : effect i s = .ok u) (hw : s.slots.wf s.cfg = true) : u.slots.wf s.cfg = true := by
  obtain ⟨-, w, rfl⟩ | ⟨-, d, v, -, rfl, hv⟩ | ⟨-, d, f, g, -, hf, hg, rfl⟩ := effect_ok_cases h
  · exact hw
  · exact Memory.wf_put hw d (hv hw)
  · refine Memory.wf_put hw d fun f' hf' => ?_
    cases hf'
    have := Memory.filter_wf hw hf
    rwa [BloomFilter.wf, hg]

theorem writesSlot_of_endsFilter {d : Nat} (h : endsFilter d i = true) : writesSlot d i = true := by
  cases i <;> simp_all [endsFilter, writesSlot]

/-- A rule changes no slot but the one its command writes (R22). -/
theorem effect_ok_slotAt {d : Nat} (h : effect i s = .ok u) (hd : writesSlot d i = false) : u.slotAt d = s.slotAt d := by
  obtain ⟨-, w, rfl⟩ | ⟨-, d', v, he, rfl, -⟩ | ⟨-, d', f, g, hw, -, -, rfl⟩ := effect_ok_cases h
  · rfl
  · refine Memory.slot_put_ne ?_ _ _
    rintro rfl
    simp [writesSlot_of_endsFilter he] at hd
  · refine Memory.slot_put_ne ?_ _ _
    rintro rfl
    simp [hw] at hd

/-- A filter found after a write is the one written, or one that stood in another slot. -/
theorem Memory.slot_put_eq_some {m : Memory} {n k : Nat} {v : Option BloomFilter} {g : BloomFilter}
    (h : (m.put n v).slot k = some g) : (k = n ∧ v = some g) ∨ (k ≠ n ∧ m.slot k = some g) := by
  by_cases hk : k = n
  · subst hk
    have hl := Memory.lt_of_slot h
    rw [Memory.length_put] at hl
    rw [Memory.slot_put_same hl] at h
    exact .inl ⟨rfl, h⟩
  · rw [Memory.slot_put_ne hk] at h
    exact .inr ⟨hk, h⟩

/-- A filter keeps its size unless the command installs another or releases it (R22). -/
theorem effect_ok_size {d : Nat} {f g : BloomFilter} (h : effect i s = .ok u) (hd : endsFilter d i = false)
    (hf : s.slotAt d = some f) (hg : u.slotAt d = some g) : g.size = f.size := by
  have unchanged : s.slotAt d = some g → g.size = f.size := fun hg' => by
    rw [hf] at hg'
    cases hg'
    rfl
  obtain ⟨-, w, rfl⟩ | ⟨-, d', v, he, rfl, -⟩ | ⟨-, d', f', g', -, hf', hs, rfl⟩ := effect_ok_cases h
  · exact unchanged hg
  · obtain ⟨rfl, -⟩ | ⟨-, hg'⟩ := Memory.slot_put_eq_some hg
    · simp [he] at hd
    · exact unchanged hg'
  · obtain ⟨rfl, hg'⟩ | ⟨-, hg'⟩ := Memory.slot_put_eq_some hg
    · cases hg'
      rw [hs]
      exact congrArg BloomFilter.size (Option.some.inj (hf'.symm.trans hf))
    · exact unchanged hg'

end Sys2Proof.Machine
end

section
/-! PROOFS. Everything a step can do, by what it may write: no move but a reset writes more than one of the cases below says. -/

namespace Sys2Proof.Machine

variable {s t u : State} {i : Instr}

/-! ## The engine -/

/-- The completion of this word in this state ends in an error: it does not decode, or a check of its command fails (R90,
R203). -/
def EndsInError (c : Word) (s : State) : Prop :=
  (∀ i, decode c ≠ .ok i) ∨ ∃ i, decode c = .ok i ∧ firstError i s ≠ none

/-- Everything the completion of a word can do. -/
theorem execute_cases {c : Word} (h : execute c s = .next t) :
    (∃ i u, decode c = .ok i ∧ firstError i s = none ∧ effect i s = .ok u ∧ t = u.complete) ∨
      (EndsInError c s ∧ ∃ (code : ErrCode) (opc : Byte) (info : Word), t = s.failed code.byte opc info) := by
  unfold execute at h
  split at h
  case h_1 i hd =>
    obtain ⟨hn, u, hu, ht⟩ | ⟨e, he, ht⟩ := exec_cases h
    · exact .inl ⟨i, u, hd, hn, hu, ht⟩
    · exact .inr ⟨.inr ⟨i, hd, by simp [he]⟩, _, _, _, ht⟩
  all_goals
    next hd =>
      rw [finish_error, recordError_complete] at h
      cases h
      exact .inr ⟨.inl (by simp [hd]), _, _, _, rfl⟩

/-- A completion sets DONE, clears BUSY (R29) and leaves the parameters and the moves to come alone. -/
theorem execute_completes {c : Word} (h : execute c s = .next t) :
    t.done = true ∧ t.pending = none ∧ t.cfg = s.cfg ∧ t.turns = s.turns := by
  obtain ⟨i, u, -, -, hu, rfl⟩ | ⟨-, code, opc, info, rfl⟩ := execute_cases h
  · rw [effect_ok_frame hu]
    exact ⟨rfl, rfl, rfl, rfl⟩
  · exact ⟨rfl, rfl, rfl, rfl⟩

theorem completing_eq_some : s.completing = some i ↔
    s.nextTurn = .engine ∧ ∃ c, s.pending = some c ∧ decode c = .ok i := by
  unfold State.completing
  cases s.nextTurn <;> cases s.pending <;> simp
  split <;> simp_all

/-! ## The host -/

/-- A write that records an error (R36, R205): CMD, ARG, or CTRL with ARGQ_CLR, while BUSY = 1, or ARG while ARGQ is full. -/
def WriteRaises (s : State) (off : Byte) (v : Word) : Prop :=
  (off = 0x10#8 ∧ s.busy = true) ∨ (off = 0x14#8 ∧ (s.busy = true ∨ s.cfg.argqDepth ≤ s.argq.length)) ∨
    (off = 0x08#8 ∧ v.getLsbD 9 = false ∧ v.getLsbD 8 = true ∧ s.busy = true)

/-- Everything a write without soft reset can write: the two flags of STATUS, an error record, or ARGQ, PENDING and the
enables. -/
theorem busWrite_writes (off : Byte) (v : Word) (h : ¬ (off = 0x08#8 ∧ v.getLsbD 9 = true)) :
    (off = 0x0C#8 ∧ s.busWrite off v = { s with done := s.done && !v.getLsbD 1, err := s.err && !v.getLsbD 2 }) ∨
    (WriteRaises s off v ∧ ∃ (code : ErrCode) (info : Word), s.busWrite off v = s.recordError code 0x00#8 info) ∨
    (∃ q p ed ee, s.busWrite off v = { s with argq := q, pending := p, ieDone := ed, ieErr := ee } ∧
      (s.pending = none ∨ p = s.pending) ∧ (s.argq.length ≤ s.cfg.argqDepth → q.length ≤ s.cfg.argqDepth)) := by
  obtain ⟨ho, h9, -⟩ | ⟨-, -, -, -, e⟩ | ⟨-, -, -, e⟩ | ⟨ho, hb, e⟩ | ⟨ho, e⟩ | ⟨-, -, e⟩ | ⟨-, -, hb, e⟩ |
    ⟨-, -, hq, e⟩ | ⟨ho, -, hq, e⟩ | ⟨-, -, -, -, e⟩ := busWrite_cases s off v
  case inl => exact absurd ⟨ho, h9⟩ h
  · exact .inr (.inr ⟨_, _, _, _, e, .inr rfl, fun _ => Nat.zero_le _⟩)
  · exact .inr (.inr ⟨_, _, _, _, e, .inr rfl, id⟩)
  · refine .inr (.inl ⟨?_, _, _, e⟩)
    obtain ⟨ho, h9, h8⟩ | ⟨ho, -⟩ | ho := ho
    · exact .inr (.inr ⟨ho, h9, h8, hb⟩)
    · exact .inl ⟨ho, hb⟩
    · exact .inr (.inl ⟨ho, .inl hb⟩)
  · exact .inl ⟨ho, e⟩
  · exact .inr (.inr ⟨_, _, _, _, e, .inr rfl, id⟩)
  · exact .inr (.inr ⟨_, _, _, _, e, .inl (by simpa [State.busy] using hb), id⟩)
  · exact .inr (.inr ⟨_, _, _, _, e, .inr rfl, fun _ => by simpa using hq⟩)
  · exact .inr (.inl ⟨.inr (.inl ⟨ho, .inr hq⟩), _, _, e⟩)
  · exact .inr (.inr ⟨_, _, _, _, e, .inr rfl, id⟩)

/-- A performed write is a soft reset exactly when it is to CTRL with bit 9 set (R242). -/
theorem isReset_host {a : BusAccess} (hl : a.legal = true) (hw : a.write = true) :
    (Turn.host a).isReset = true ↔ a.addr = 0x08#8 ∧ a.wdata.getLsbD 9 = true := by
  simp [Turn.isReset, hl, hw]

/-! ## The step -/

/-- What a step can leave (R13). -/
inductive StepOutcome (s : State) : State → Prop where
  /-- the engine moves and no command is in flight (R29) -/
  | idle (hn : s.nextTurn = .engine) (hp : s.pending = none) : StepOutcome s s.advance
  /-- a command completes without error (R29) -/
  | completed {i : Instr} {u : State} (hc : s.completing = some i) (hf : firstError i s = none)
      (hu : effect i s.advance = .ok u) : StepOutcome s u.complete
  /-- a word completes with an error (R203) -/
  | failed {c : Word} {code : ErrCode} {opc : Byte} {info : Word} (hn : s.nextTurn = .engine) (hp : s.pending = some c)
      (he : EndsInError c s) : StepOutcome s (s.advance.failed code.byte opc info)
  /-- the host reads, or its access is refused (R53, R60) -/
  | answered {a : BusAccess} {r : BusResponse} (hn : s.nextTurn = .host a) (ha : a.legal = false ∨ a.write = false) :
      StepOutcome s (s.advance.respond r)
  /-- the host writes, and it is no soft reset (R59) -/
  | written {a : BusAccess} (hn : s.nextTurn = .host a) (hl : a.legal = true) (hw : a.write = true)
      (hr : ¬ (a.addr = 0x08#8 ∧ a.wdata.getLsbD 9 = true)) :
      StepOutcome s ((s.advance.busWrite a.addr a.wdata).respond .written)
  /-- a reset, of the line or soft (R241, R242) -/
  | reset {rs : List BusResponse} (hr : s.nextTurn.isReset = true) :
      StepOutcome s { State.resetWith s.cfg with turns := s.restTurns, responses := rs }

/-- A check fails or passes whatever the moves to come are. -/
theorem endsInError_advance {c : Word} (h : EndsInError c s.advance) : EndsInError c s := by
  simpa only [EndsInError, firstError_advance] using h

/-- Every step has one of the outcomes listed. -/
theorem step_outcome (h : step s = .next t) : StepOutcome s t := by
  obtain ⟨hn, hp, rfl⟩ | ⟨c, hn, hp, he⟩ | ⟨a, hn, rfl⟩ | ⟨hn, rfl⟩ := step_cases h
  · exact .idle hn hp
  · obtain ⟨i, u, hd, hf, hu, rfl⟩ | ⟨hx, code, opc, info, rfl⟩ := execute_cases he
    · exact .completed (completing_eq_some.mpr ⟨hn, c, hp, hd⟩) (by rwa [firstError_advance] at hf) hu
    · exact .failed hn hp (endsInError_advance hx)
  · obtain ⟨ha, r, e⟩ | ⟨hl, hw, e⟩ := hostAccess_cases s.advance a
    · rw [e]
      exact .answered hn ha
    · rw [e]
      by_cases hr : a.addr = 0x08#8 ∧ a.wdata.getLsbD 9 = true
      · rw [hr.1, busWrite_ctrl, ctrlWrite_softReset hr.2]
        exact .reset (by rw [hn]; exact (isReset_host hl hw).mpr hr)
      · exact .written hn hl hw hr
  · exact .reset (by rw [hn]; rfl)

end Sys2Proof.Machine
end

section
/-! PROOFS. The invariant `State.wf` is kept by every step (R20, R21, R24, R38, R201), and so are the parameters (R42). -/

namespace Sys2Proof.Machine

variable {s t u : State} {i : Instr}

/-- The record of an error, written out (R200, R209). -/
theorem recordError_eq (s : State) (code : ErrCode) (opc : Byte) (info : Word) : s.recordError code opc info =
    { s with
      err := true
      errCode := if s.err then s.errCode else errCodeWord code opc
      errInfo := if s.err then s.errInfo else info } := by
  unfold State.recordError
  cases s with | mk cfg slots argq pending done err ieDone ieErr result errCode errInfo turns responses =>
  cases err <;> rfl

/-- CODE of an ERRCODE word (R38). -/
theorem extractLsb'_errCodeWord_code (code : ErrCode) (opc : Byte) : (errCodeWord code opc).extractLsb' 0 8 = code.byte :=
  BitVec.extractLsb'_append_eq_right

/-- The reserved upper half of an ERRCODE word is 0 (R38). -/
theorem extractLsb'_errCodeWord_reserved (code : ErrCode) (opc : Byte) :
    (errCodeWord code opc).extractLsb' 16 16 = 0#16 := by
  have h : errCodeWord code opc = 0#16 ++ (opc ++ code.byte) := BitVec.append_assoc
  rw [h]
  exact BitVec.extractLsb'_append_eq_left

/-- The codes of R201 are 0x01 to 0x0C. -/
theorem code_byte_range (code : ErrCode) : code.byte.toNat ≤ 0x0C ∧ code.byte ≠ 0#8 := by
  cases code <;> decide

theorem State.errRecordWf_iff : s.errRecordWf = true ↔
    s.errCode.extractLsb' 16 16 = 0#16 ∧ s.errCodeField.toNat ≤ 0x0C ∧
    (s.errCodeField = 0#8 → s.errCode = 0#32 ∧ s.errInfo = 0#32 ∧ s.err = false) := by
  by_cases h : s.errCodeField = 0#8 <;> simp [State.errRecordWf, and_assoc, h]

/-- A recorded error is a well-formed record (R38, R201), and so is the one kept instead (R209). -/
theorem recordError_errRecordWf (h : s.errRecordWf = true) (code : ErrCode) (opc : Byte) (info : Word) :
    (s.recordError code opc info).errRecordWf = true := by
  cases he : s.err with
  | true => rwa [State.recordError_of_err he]
  | false =>
    obtain ⟨hle, hne⟩ := code_byte_range code
    rw [State.recordError_of_not_err he, State.errRecordWf_iff]
    simp only [State.errCodeField, extractLsb'_errCodeWord_code, extractLsb'_errCodeWord_reserved]
    exact ⟨trivial, hle, fun h0 => absurd h0 hne⟩

/-- Clearing flags leaves the record well formed (R208). -/
theorem statusWrite_errRecordWf (h : s.errRecordWf = true) (d e : Bool) :
    State.errRecordWf { s with done := d, err := s.err && e } = true := by
  rw [State.errRecordWf_iff] at h ⊢
  obtain ⟨hres, hle, h0⟩ := h
  refine ⟨hres, hle, fun hz => ?_⟩
  obtain ⟨hcode, hinfo, herr⟩ := h0 hz
  exact ⟨hcode, hinfo, by simp [herr]⟩

/-- An error leaves every part of the invariant but the record as it was. -/
theorem recordError_wf (h : s.wf = true) (code : ErrCode) (opc : Byte) (info : Word) :
    (s.recordError code opc info).wf = true := by
  rw [State.wf_iff] at h ⊢
  obtain ⟨hcfg, hslots, hq, hrec⟩ := h
  simpa [State.argCount, hcfg, hslots] using ⟨hq, recordError_errRecordWf hrec code opc info⟩

theorem effect_ok_wf (h : effect i s = .ok u) (hw : s.wf = true) : u.wf = true := by
  rw [State.wf_iff] at hw ⊢
  obtain ⟨hcfg, hslots, hq, hrec⟩ := hw
  have hslots' := effect_ok_slots_wf h hslots
  have hq' : u.argCount ≤ s.cfg.argqDepth := by
    rw [State.argCount, effect_ok_argq h, List.length_drop]
    exact (Nat.sub_le _ _).trans hq
  rw [effect_ok_frame h]
  exact ⟨hcfg, hslots', hq', hrec⟩

theorem busWrite_wf {off : Byte} {v : Word} (h : s.wf = true) (hr : ¬ (off = 0x08#8 ∧ v.getLsbD 9 = true)) :
    (s.busWrite off v).wf = true := by
  obtain ⟨-, e⟩ | ⟨-, code, info, e⟩ | ⟨q, p, ed, ee, e, -, hq'⟩ := busWrite_writes (s := s) off v hr <;> rw [e]
  · rw [State.wf_iff] at h ⊢
    obtain ⟨hcfg, hslots, hq, hrec⟩ := h
    exact ⟨hcfg, hslots, hq, statusWrite_errRecordWf hrec _ _⟩
  · exact recordError_wf h _ _ _
  · rw [State.wf_iff] at h ⊢
    obtain ⟨hcfg, hslots, hq, hrec⟩ := h
    exact ⟨hcfg, hslots, hq' hq, hrec⟩

/-- Settles O34: by the outcomes of a step. Slot storage stays canonical because a command installs filters of a checked size
only, ARGQ grows only while it has room, and only codes of R201 are recorded. -/
theorem stepKeepsStateInvariant : Obligations.StepKeepsStateInvariant := by
  intro s t hw h
  have hadv : s.advance.wf = true := hw
  cases step_outcome h with
  | idle => exact hadv
  | completed _ _ hu =>
    have hu' := effect_ok_wf hu hadv
    exact hu'
  | failed =>
    rw [← recordError_complete]
    exact recordError_wf hadv _ _ _
  | answered => exact hadv
  | written _ _ _ hr => exact busWrite_wf hadv hr
  | reset => exact State.wf_resetWith (State.wf_iff.mp hw).1

/-- A write keeps the parameters and the moves to come. -/
theorem busWrite_cfg_turns (s : State) (off : Byte) (v : Word) :
    (s.busWrite off v).cfg = s.cfg ∧ (s.busWrite off v).turns = s.turns := by
  by_cases hr : off = 0x08#8 ∧ v.getLsbD 9 = true
  · rw [hr.1, busWrite_ctrl, ctrlWrite_softReset hr.2]
    exact ⟨rfl, rfl⟩
  · obtain ⟨-, e⟩ | ⟨-, code, info, e⟩ | ⟨q, p, ed, ee, e, -, -⟩ := busWrite_writes (s := s) off v hr <;> simp [e]

/-- The parameters never change (R42), and a step takes its own move from the moves to come (log 3). -/
theorem step_cfg_turns (h : step s = .next t) : t.cfg = s.cfg ∧ t.turns = s.restTurns := by
  cases step_outcome h with
  | idle => exact ⟨rfl, rfl⟩
  | completed _ _ hu =>
    rw [effect_ok_frame hu]
    exact ⟨rfl, rfl⟩
  | failed => exact ⟨rfl, rfl⟩
  | answered => exact ⟨rfl, rfl⟩
  | @written a =>
    have hw := busWrite_cfg_turns s.advance a.addr a.wdata
    exact hw
  | reset => exact ⟨rfl, rfl⟩

/-- Settles O35: by the outcomes of a step. -/
theorem stepKeepsParameters : Obligations.StepKeepsParameters := fun _ _ => step_cfg_turns

end Sys2Proof.Machine
end

section
/-! PROOFS. The decoder reads back what the assembler wrote (R86, R90, R91). -/

namespace Sys2Proof

/-! ## The fields of a word made of parts (R82) -/

theorem fieldD_or (x y : Word) : fieldD (x ||| y) = fieldD x ||| fieldD y := by
  simp [fieldD, BitVec.extractLsb'_or]

theorem fieldA_or (x y : Word) : fieldA (x ||| y) = fieldA x ||| fieldA y := by
  simp [fieldA, BitVec.extractLsb'_or]

theorem fieldB_or (x y : Word) : fieldB (x ||| y) = fieldB x ||| fieldB y := by
  simp [fieldB, BitVec.extractLsb'_or]

theorem fieldImm_or (x y : Word) : fieldImm (x ||| y) = fieldImm x ||| fieldImm y := by
  simp [fieldImm, BitVec.extractLsb'_or]

/-- The pattern of a row has no bit below OPC. -/
theorem field_pattern (o : Opcode) :
    fieldD o.pattern = 0 ∧ fieldA o.pattern = 0 ∧ fieldB o.pattern = 0 ∧ fieldImm o.pattern = 0 := by
  cases o <;> decide

theorem field_putD {d : Nat} (h : d < 16) :
    fieldD (putD d) = d ∧ fieldA (putD d) = 0 ∧ fieldB (putD d) = 0 ∧ fieldImm (putD d) = 0 := by
  simp only [fieldD, fieldA, fieldB, fieldImm, putD]
  refine ⟨?_, ?_, ?_, ?_⟩
  · rw [put_ext_same (by decide), BitVec.toNat_ofNat, Nat.mod_eq_of_lt h]
  all_goals rw [put_ext_zero (w := 4) h (by decide)]; rfl

theorem field_putA {a : Nat} (h : a < 16) :
    fieldD (putA a) = 0 ∧ fieldA (putA a) = a ∧ fieldB (putA a) = 0 ∧ fieldImm (putA a) = 0 := by
  simp only [fieldD, fieldA, fieldB, fieldImm, putA]
  refine ⟨?_, ?_, ?_, ?_⟩
  case refine_2 => rw [put_ext_same (by decide), BitVec.toNat_ofNat, Nat.mod_eq_of_lt h]
  all_goals rw [put_ext_zero (w := 4) h (by decide)]; rfl

theorem field_putB {b : Nat} (h : b < 16) : fieldD (putB b) = 0 ∧ fieldA (putB b) = 0 ∧ fieldB (putB b) = b := by
  simp only [fieldD, fieldA, fieldB, putB]
  refine ⟨?_, ?_, ?_⟩
  case refine_3 => rw [put_ext_same (by decide), BitVec.toNat_ofNat, Nat.mod_eq_of_lt h]
  all_goals rw [put_ext_zero (w := 4) h (by decide)]; rfl

theorem putImm_eq (n : Nat) : putImm n = BitVec.ofNat 32 n <<< 0 := by simp [putImm]

theorem field_putImm {n : Nat} (h : n < 65536) :
    fieldD (putImm n) = 0 ∧ fieldA (putImm n) = 0 ∧ fieldImm (putImm n) = n := by
  simp only [fieldD, fieldA, fieldImm, putImm_eq]
  refine ⟨?_, ?_, ?_⟩
  case refine_3 => rw [put_ext_same (by decide), BitVec.toNat_ofNat, Nat.mod_eq_of_lt h]
  all_goals rw [put_ext_zero (w := 16) h (by decide)]; rfl

/-! ## The must-be-zero bits of a word made of parts (R87) -/

theorem or_and_mask (x y m : Word) : (x ||| y) &&& m = (x &&& m) ||| (y &&& m) := by
  ext i hi
  simp [Bool.and_or_distrib_right]

theorem pattern_and_mask (o : Opcode) : o.pattern &&& o.mask = o.pattern := by
  cases o <;> decide

/-- Field D is free in a row whose mask has no bit in it. -/
theorem putD_and_mask {d : Nat} (h : d < 16) {m : Word} (hm : ∀ i < 32, 20 ≤ i → i < 20 + 4 → m.getLsbD i = false) :
    putD d &&& m = 0#32 := put_and (w := 4) h hm

theorem putA_and_mask {a : Nat} (h : a < 16) {m : Word} (hm : ∀ i < 32, 16 ≤ i → i < 16 + 4 → m.getLsbD i = false) :
    putA a &&& m = 0#32 := put_and (w := 4) h hm

theorem putB_and_mask {b : Nat} (h : b < 16) {m : Word} (hm : ∀ i < 32, 12 ≤ i → i < 12 + 4 → m.getLsbD i = false) :
    putB b &&& m = 0#32 := put_and (w := 4) h hm

theorem putImm_and_mask {n : Nat} (h : n < 65536) {m : Word} (hm : ∀ i < 32, 0 ≤ i → i < 0 + 16 → m.getLsbD i = false) :
    putImm n &&& m = 0#32 := by
  rw [putImm_eq]
  exact put_and (w := 16) h hm

/-- A word with the OPC of a row and no must-be-zero bit set decodes to that row's command (R90). -/
theorem decode_of_row {w : Word} {o : Opcode} (hop : fieldOpc w = o.opc) (hm : w &&& o.mask = o.pattern) :
    decode w = .ok (o.build (fieldD w) (fieldA w) (fieldB w) (fieldImm w)) := by
  simp [decode, hop, ofByte_opc, hm]

/-- The encoding of a well-formed command carries the OPC of its row. -/
theorem fieldOpc_encode {i : Instr} (h : i.wellFormed = true) : fieldOpc (encode i) = i.opcode.opc := by
  cases i with
  | construct d n => exact Laws.EncodedOpc.construct d n h
  | release d => exact Laws.EncodedOpc.release d h
  | loadw d i => exact Laws.EncodedOpc.loadw d i h
  | readw a i => exact Laws.EncodedOpc.readw a i h
  | getsize a => exact Laws.EncodedOpc.getsize a h
  | add d n => exact Laws.EncodedOpc.add d n h
  | contains a n => exact Laws.EncodedOpc.contains a n h
  | union d a b => exact Laws.EncodedOpc.union d a b h
  | intersect d a b => exact Laws.EncodedOpc.intersect d a b h
  | subset a b => exact Laws.EncodedOpc.subset a b h
  | reduce d a m => exact Laws.EncodedOpc.reduce d a m h
  | hash a => exact Laws.EncodedOpc.hash a h
  | density a => exact Laws.EncodedOpc.density a h

/-- The operands of a well-formed command leave its row's must-be-zero bits 0 (R87, R91). -/
theorem encode_and_mask {i : Instr} (h : i.wellFormed = true) : encode i &&& i.opcode.mask = i.opcode.pattern := by
  cases i <;> simp only [Instr.wellFormed, Bool.and_eq_true, slotFits_iff, immFits_iff] at h <;>
    simp only [encode, Instr.opcode, or_and_mask, pattern_and_mask]
  case construct d n =>
    obtain ⟨hd, hn⟩ := h
    rw [putD_and_mask hd (by decide), putImm_and_mask hn (by decide)]; rfl
  case release d =>
    rw [putD_and_mask h (by decide)]; rfl
  case loadw d n =>
    obtain ⟨hd, hn⟩ := h
    rw [putD_and_mask hd (by decide), putImm_and_mask hn (by decide)]; rfl
  case readw a n =>
    obtain ⟨ha, hn⟩ := h
    rw [putA_and_mask ha (by decide), putImm_and_mask hn (by decide)]; rfl
  case getsize a =>
    rw [putA_and_mask h (by decide)]; rfl
  case add d n =>
    obtain ⟨hd, hn⟩ := h
    rw [putD_and_mask hd (by decide), putImm_and_mask hn (by decide)]; rfl
  case contains a n =>
    obtain ⟨ha, hn⟩ := h
    rw [putA_and_mask ha (by decide), putImm_and_mask hn (by decide)]; rfl
  case union d a b =>
    obtain ⟨⟨hd, ha⟩, hb⟩ := h
    rw [putD_and_mask hd (by decide), putA_and_mask ha (by decide), putB_and_mask hb (by decide)]; rfl
  case intersect d a b =>
    obtain ⟨⟨hd, ha⟩, hb⟩ := h
    rw [putD_and_mask hd (by decide), putA_and_mask ha (by decide), putB_and_mask hb (by decide)]; rfl
  case subset a b =>
    obtain ⟨ha, hb⟩ := h
    rw [putA_and_mask ha (by decide), putB_and_mask hb (by decide)]; rfl
  case reduce d a m =>
    obtain ⟨⟨hd, ha⟩, hn⟩ := h
    rw [putD_and_mask hd (by decide), putA_and_mask ha (by decide), putImm_and_mask hn (by decide)]; rfl
  case hash a =>
    rw [putA_and_mask h (by decide)]; rfl
  case density a =>
    rw [putA_and_mask h (by decide)]; rfl

/-- The fields of a well-formed command's word are its operands (R82, R83). -/
theorem build_encode {i : Instr} (h : i.wellFormed = true) :
    i.opcode.build (fieldD (encode i)) (fieldA (encode i)) (fieldB (encode i)) (fieldImm (encode i)) = i := by
  cases i <;> simp only [Instr.wellFormed, Bool.and_eq_true, slotFits_iff, immFits_iff] at h <;>
    simp only [encode, Instr.opcode, Opcode.build, fieldD_or, fieldA_or, fieldB_or, fieldImm_or, field_pattern,
      Nat.zero_or]
  case construct d n =>
    obtain ⟨hd, hn⟩ := h
    simp [field_putD hd, field_putImm hn]
  case release d =>
    simp [field_putD h]
  case loadw d n =>
    obtain ⟨hd, hn⟩ := h
    simp [field_putD hd, field_putImm hn]
  case readw a n =>
    obtain ⟨ha, hn⟩ := h
    simp [field_putA ha, field_putImm hn]
  case getsize a =>
    simp [field_putA h]
  case add d n =>
    obtain ⟨hd, hn⟩ := h
    simp [field_putD hd, field_putImm hn]
  case contains a n =>
    obtain ⟨ha, hn⟩ := h
    simp [field_putA ha, field_putImm hn]
  case union d a b =>
    obtain ⟨⟨hd, ha⟩, hb⟩ := h
    simp [field_putD hd, field_putA ha, field_putB hb]
  case intersect d a b =>
    obtain ⟨⟨hd, ha⟩, hb⟩ := h
    simp [field_putD hd, field_putA ha, field_putB hb]
  case subset a b =>
    obtain ⟨ha, hb⟩ := h
    simp [field_putA ha, field_putB hb]
  case reduce d a m =>
    obtain ⟨⟨hd, ha⟩, hn⟩ := h
    simp [field_putD hd, field_putA ha, field_putImm hn]
  case hash a =>
    simp [field_putA h]
  case density a =>
    simp [field_putA h]

/-- Decoding an encoded command gives it back (R90, R91). -/
theorem decode_encode {i : Instr} (h : i.wellFormed = true) : decode (encode i) = .ok i := by
  rw [decode_of_row (fieldOpc_encode h) (encode_and_mask h), build_encode h]

end Sys2Proof
end

section
/-! PROOFS. The moves of the engine: it runs the command in flight and completes it (R29, R90, R254). -/

namespace Sys2Proof.Machine

variable {s t : State}

/-- Settles O7: the engine's move on a busy block executes PENDING, and a word that decodes runs its meaning. -/
theorem engineTurnRunsPendingCommand : Obligations.EngineTurnRunsPendingCommand := by
  intro s c i hn hp hd
  rw [step_engine hn, engineTurn_some (s := s.advance) hp, execute_ok hd]

/-- Settles O8: the engine is not enabled while BUSY = 0. -/
theorem idleEngineTurnChangesNothing : Obligations.IdleEngineTurnChangesNothing := by
  intro s hn hp
  rw [step_engine hn, engineTurn_none (s := s.advance) hp]

/-- Every step ends in a next state: every word completes (R90, R203) and every access is answered (R53). -/
theorem step_total (s : State) : ∃ t, step s = .next t := by
  cases hn : s.nextTurn with
  | engine =>
    rw [step_engine hn]
    cases hp : s.pending with
    | none => exact ⟨_, engineTurn_none (s := s.advance) hp⟩
    | some c =>
      rw [engineTurn_some (s := s.advance) hp]
      exact execute_total c _
  | host a => exact ⟨_, step_host hn⟩
  | reset => exact ⟨_, step_reset hn⟩

/-- What the first part of O11 says of a command in flight: an engine's move among those to come or right after them runs it,
PENDING keeps it until then, and DONE is 1 and BUSY 0 after that move. -/
def RunsAndCompletes (s : State) (c : Word) : Prop :=
  ∃ (k : Nat) (u v : State), k ≤ s.turns.length ∧ runSteps k s = .next u ∧ u.pending = some c ∧
    u.nextTurn = .engine ∧ (∀ (j : Nat) (w : State), j ≤ k → runSteps j s = .next w → w.pending = some c) ∧
    step u = .next v ∧ execute c u.advance = .next v ∧ v.done = true ∧ v.busy = false

/-- The engine's move now. -/
theorem runsAndCompletes_of_engine {c : Word} (hp : s.pending = some c) (hn : s.nextTurn = .engine) :
    RunsAndCompletes s c := by
  obtain ⟨v, hv⟩ := execute_total c s.advance
  obtain ⟨hdone, hpend, -, -⟩ := execute_completes hv
  refine ⟨0, s, v, Nat.zero_le _, rfl, hp, hn, ?_, ?_, hv, hdone, by simp [State.busy, hpend]⟩
  · rintro j w hj hw
    obtain rfl := Nat.le_zero.mp hj
    cases hw
    exact hp
  · rw [step_engine hn, engineTurn_some (s := s.advance) hp, hv]

/-- Another move first, which keeps PENDING. -/
theorem runsAndCompletes_of_step {c : Word} (hp : s.pending = some c) (hs : step s = .next t)
    (hl : t.turns.length + 1 = s.turns.length) (ht : RunsAndCompletes t c) : RunsAndCompletes s c := by
  obtain ⟨k, u, v, hk, hu, hpu, hnu, hkeep, hv⟩ := ht
  refine ⟨k + 1, u, v, by omega, by rw [runSteps_succ hs, hu], hpu, hnu, ?_, hv⟩
  rintro (_ | j) w hj hw
  · cases hw
    exact hp
  · rw [runSteps_succ hs] at hw
    exact hkeep j w (by omega) hw

/-- No host access but a soft reset takes a command out of flight (R205, R242). -/
theorem hostAccess_keeps_pending {a : BusAccess} {c : Word} (hp : s.pending = some c)
    (hr : (Turn.host a).isReset = false) : (s.hostAccess a).pending = some c := by
  obtain ⟨-, r, e⟩ | ⟨hl, hw, e⟩ := hostAccess_cases s a
  · rw [e]
    exact hp
  · have hr' : ¬ (a.addr = 0x08#8 ∧ a.wdata.getLsbD 9 = true) := by
      rw [← isReset_host hl hw, hr]
      decide
    obtain ⟨-, e'⟩ | ⟨-, code, info, e'⟩ | ⟨q, p, ed, ee, e', hpend, -⟩ :=
      busWrite_writes (s := s) a.addr a.wdata hr' <;> rw [e, e', State.respond_pending]
    · exact hp
    · rw [State.recordError_pending, hp]
    · obtain hnone | hsame := hpend
      · simp [hnone] at hp
      · exact hsame.trans hp

/-- A command in flight is run and completed when no reset comes (R29, R254): by induction on the moves to come. -/
theorem runsAndCompletes (ts : List Turn) {s : State} {c : Word} (hts : s.turns = ts) (hp : s.pending = some c)
    (hr : ∀ m ∈ ts, m.isReset = false) : RunsAndCompletes s c := by
  induction ts generalizing s with
  | nil => exact runsAndCompletes_of_engine hp (by simp [State.nextTurn, hts])
  | cons m ts ih =>
    have hm := hr m (by simp)
    have hn : s.nextTurn = m := by simp [State.nextTurn, hts]
    cases m with
    | engine => exact runsAndCompletes_of_engine hp hn
    | reset => simp [Turn.isReset] at hm
    | host a =>
      have hs := step_host hn
      have hturns : (s.advance.hostAccess a).turns = ts := by
        rw [(step_cfg_turns hs).2, State.restTurns, hts]
        rfl
      refine runsAndCompletes_of_step hp hs (by simp [hturns, hts]) ?_
      exact ih hturns (hostAccess_keeps_pending (s := s.advance) hp hm) fun m' h' => hr m' (by simp [h'])

/-- The engine leaves BUSY 0 whether a command was in flight or not. -/
theorem engine_clears_busy (hn : s.nextTurn = .engine) (h : step s = .next t) : t.busy = false := by
  rw [step_engine hn] at h
  cases hp : s.pending with
  | none =>
    rw [engineTurn_none (s := s.advance) hp] at h
    cases h
    simp [State.busy, hp]
  | some c =>
    rw [engineTurn_some (s := s.advance) hp] at h
    obtain ⟨-, hpend, -, -⟩ := execute_completes h
    simp [State.busy, hpend]

/-- One step after the last move to come BUSY is 0: by induction on the moves to come. -/
theorem busy_false_after_turns (ts : List Turn) {s : State} (hts : s.turns = ts) :
    ∃ t, runSteps (ts.length + 1) s = .next t ∧ t.busy = false ∧ t.turns = [] := by
  induction ts generalizing s with
  | nil =>
    obtain ⟨t, ht⟩ := step_total s
    refine ⟨t, (runSteps_one s).trans ht, engine_clears_busy (by simp [State.nextTurn, hts]) ht, ?_⟩
    rw [(step_cfg_turns ht).2, State.restTurns, hts, List.tail_nil]
  | cons m ts ih =>
    obtain ⟨t, ht⟩ := step_total s
    obtain ⟨u, hu, hbusy, hturns⟩ := ih (s := t) (by rw [(step_cfg_turns ht).2, State.restTurns, hts, List.tail_cons])
    exact ⟨u, by rw [List.length_cons, runSteps_succ ht, hu], hbusy, hturns⟩

/-- Settles O11: both parts by induction on the moves to come. -/
theorem commandInFlightCompletes : Obligations.CommandInFlightCompletes :=
  ⟨fun s _ hp hr => runsAndCompletes s.turns rfl hp hr, fun s => busy_false_after_turns s.turns rfl⟩

end Sys2Proof.Machine
end

section
/-! PROOFS. The register window: what each write does as a step (R29 to R32, R36, R59), the issue protocol built from such
writes (R245), and the registers after reset (R43). -/

namespace Sys2Proof.Machine

variable {s : State}

/-- Settles O14: the write is performed and no register takes it. -/
theorem writeToOtherOffsetsChangesNothing : Obligations.WriteToOtherOffsetsChangesNothing := by
  intro s a hn hl hw h8 hC h10 h14
  rw [step_host hn, State.hostAccess, if_pos hl, if_pos hw, busWrite_other h8 hC h10 h14]
  rfl

theorem busy_eq_false_iff : s.busy = false ↔ s.pending = none := by
  simp [State.busy]

/-- Settles O15: the three cases of a CMD write. -/
theorem cmdWriteIsAcceptedDroppedOrDiscarded : Obligations.CmdWriteIsAcceptedDroppedOrDiscarded := by
  intro s c hn
  rw [step_write hn rfl, busWrite_cmd]
  refine ⟨fun he => ?_, fun he hp => ?_, fun he hp => ?_⟩
  · rw [cmdWrite_discarded (s := s.advance) he]
    rfl
  · rw [cmdWrite_dropped (s := s.advance) he (busy_iff.mpr hp), State.busyError_eq,
      State.recordError_of_not_err (s := s.advance) he]
    rfl
  · rw [cmdWrite_accepted (s := s.advance) he (busy_eq_false_iff.mpr hp)]
    rfl

/-- Settles O16: the three cases of an ARG write, and the offset that reads 0. -/
theorem argWriteAppendsOrRaises : Obligations.ArgWriteAppendsOrRaises := by
  refine ⟨fun s v hn => ?_, fun s hn => by rw [step_read hn rfl]; rfl⟩
  rw [step_write hn rfl, busWrite_arg]
  refine ⟨fun hp hq => ?_, fun hp hq => ?_, fun hp => ?_⟩
  · rw [argWrite_appended (s := s.advance) (busy_eq_false_iff.mpr hp) hq]
    rfl
  · rw [argWrite_full (s := s.advance) (busy_eq_false_iff.mpr hp) hq, recordError_eq]
    rfl
  · rw [argWrite_dropped (s := s.advance) (busy_iff.mpr hp), State.busyError_eq, recordError_eq]
    rfl

/-- Settles O17: the cases of a CTRL write without SOFT_RESET. -/
theorem ctrlWriteSetsEnablesAndClearsQueue : Obligations.CtrlWriteSetsEnablesAndClearsQueue := by
  intro s v hn h9
  rw [step_write hn rfl, busWrite_ctrl]
  refine ⟨fun h8 hp => ?_, fun h8 hp => ?_, fun h8 => ?_⟩
  · rw [ctrlWrite_dropped h9 h8 (s := s.advance) (busy_iff.mpr hp), State.busyError_eq, recordError_eq]
    rfl
  · rw [ctrlWrite_argClear h9 h8 (s := s.advance) (busy_eq_false_iff.mpr hp)]
    rfl
  · rw [ctrlWrite_enables h9 h8]
    rfl

/-- Settles O18: the two write-1-to-clear bits. -/
theorem statusWriteClearsDoneAndErr : Obligations.StatusWriteClearsDoneAndErr := by
  intro s v hn
  rw [step_write hn rfl, busWrite_status, statusWrite_eq]
  rfl

theorem ctrlWord_resetWith (c : Config) : (State.resetWith c).ctrlWord = 0#32 := by
  have h : (State.resetWith c).ctrlWord = State.reset.ctrlWord := rfl
  rw [h]
  decide

theorem statusWord_resetWith (c : Config) : (State.resetWith c).statusWord = 0#32 := by
  have h : (State.resetWith c).statusWord = State.reset.statusWord := rfl
  rw [h]
  decide

/-- Settles O19: each field of the reset state and each register it shows. -/
theorem resetStateHoldsResetValues : Obligations.ResetStateHoldsResetValues := by
  intro c
  have hslots : (State.resetWith c).slots.length = c.nslot := List.length_replicate
  have hslot (n : Nat) : (State.resetWith c).slotAt n = none := Memory.slot_reset c.nslot n
  exact ⟨hslots, hslot, rfl, rfl, rfl, rfl, rfl, rfl, rfl, rfl, rfl, rfl, ctrlWord_resetWith c, statusWord_resetWith c,
    rfl, rfl, rfl⟩

/-! ## The issue protocol (R245) -/

/-- An ARG write with room in ARGQ, as a step (R36). -/
theorem step_argWrite {v : Word} {ts : List Turn} (hp : s.pending = none) (hq : s.argq.length < s.cfg.argqDepth)
    (hts : s.turns = writeTurn 0x14#8 v :: ts) :
    step s = .next { s with argq := s.argq ++ [v], turns := ts, responses := s.responses ++ [.written] } := by
  have hn : s.nextTurn = writeTurn 0x14#8 v := by simp [State.nextTurn, hts]
  rw [(argWriteAppendsOrRaises.1 s v hn).1 hp hq, State.restTurns, hts]
  rfl

/-- A CMD write that is accepted, as a step (R29). -/
theorem step_cmdWrite {c : Word} {ts : List Turn} (he : s.err = false) (hp : s.pending = none)
    (hts : s.turns = writeTurn 0x10#8 c :: ts) :
    step s = .next { s with pending := some c, turns := ts, responses := s.responses ++ [.written] } := by
  have hn : s.nextTurn = writeTurn 0x10#8 c := by simp [State.nextTurn, hts]
  rw [(cmdWriteIsAcceptedDroppedOrDiscarded s c hn).2.2 he hp, State.restTurns, hts]
  rfl

/-- Operands pushed one after the other stand in ARGQ in their order: by induction on them. -/
theorem runSteps_argWrites (hs : List Word) {s : State} {ts : List Turn} (k : Nat) (hp : s.pending = none)
    (hq : s.argq.length + hs.length ≤ s.cfg.argqDepth) (hts : s.turns = hs.map (writeTurn 0x14#8) ++ ts) :
    runSteps (hs.length + k) s = runSteps k { s with
      argq := s.argq ++ hs
      turns := ts
      responses := s.responses ++ List.replicate hs.length .written } := by
  induction hs generalizing s with
  | nil =>
    have h : s.turns = ts := hts
    simp [← h]
  | cons v hs ih =>
    rw [List.length_cons] at hq
    have hstep := step_argWrite hp (by omega) hts
    rw [List.length_cons, Nat.add_right_comm, runSteps_succ hstep]
    refine (ih ?_ ?_ rfl).trans ?_
    · exact hp
    · simp only [List.length_append, List.length_singleton]
      omega
    · simp [List.replicate_succ]

/-- Settles O9: the ARG writes push the operands, the CMD write is accepted, and the engine decodes the word it stored. -/
theorem issuedCommandRunsOnItsOperands : Obligations.IssuedCommandRunsOnItsOperands := by
  intro s i hs rest hw he hp hq hts
  rw [runSteps_argWrites hs 2 hp hq hts]
  refine (runSteps_succ (k := 1) (step_cmdWrite ?_ ?_ rfl)).trans ?_
  · exact he
  · exact hp
  rw [runSteps_one, engineTurnRunsPendingCommand _ (encode i) i rfl rfl (decode_encode hw)]
  simp [State.advance, State.restTurns, List.replicate_succ']

end Sys2Proof.Machine
end

section
/-! PROOFS. What changes and what does not: the flags, the error record, RESULT and the slots over a step (R22, R26, R27, R38,
R210), and the frame of each kind of command. -/

namespace Sys2Proof.Machine

variable {s t u : State} {i : Instr}

/-! ## The flags and the error record -/

/-- Settles O23: a rule whose checks pass writes storage, ARGQ and RESULT only. -/
theorem commandWithoutErrorCompletes : Obligations.CommandWithoutErrorCompletes := by
  intro i s hn
  obtain ⟨e, he, -⟩ | ⟨-, u, hu⟩ := effect_cases i s
  · simp [hn] at he
  · refine ⟨u.complete, by rw [exec_eq_finish, hu, finish_ok], ?_⟩
    rw [effect_ok_frame hu]
    rfl

/-- A recorded error changes the error record only while ERR = 0 (R200, R209). -/
theorem err_false_of_record_changes {code : ErrCode} {opc : Byte} {info : Word}
    (h : (s.recordError code opc info).errCode ≠ s.errCode ∨ (s.recordError code opc info).errInfo ≠ s.errInfo) :
    s.err = false := by
  by_contra he
  rw [State.recordError_of_err (Bool.eq_true_of_not_eq_false he)] at h
  simp at h

/-- Settles O24: by the outcomes of a step. -/
theorem errorRecordChangesOnlyAtFirstError : Obligations.ErrorRecordChangesOnlyAtFirstError := by
  intro s t h hr hch
  cases step_outcome h with
  | idle => simp at hch
  | completed _ _ hu =>
    rw [effect_ok_frame hu] at hch
    simp at hch
  | failed =>
    rw [← recordError_complete] at hch
    exact ⟨err_false_of_record_changes (s := s.advance) hch, rfl⟩
  | answered => simp at hch
  | @written a _ _ _ hr' =>
    obtain ⟨-, e⟩ | ⟨-, code, info, e⟩ | ⟨q, p, ed, ee, e, -, -⟩ :=
      busWrite_writes (s := s.advance) a.addr a.wdata hr' <;> rw [e] at hch ⊢
    · simp at hch
    · exact ⟨err_false_of_record_changes (s := s.advance) hch, State.recordError_err s.advance _ _ _⟩
    · simp at hch
  | reset hr' => simp [hr] at hr'

/-- Settles O25: by the outcomes of a step, each of which changes the flags in one way only. -/
theorem statusFlagsChangeOnlyAsListed : Obligations.StatusFlagsChangeOnlyAsListed := by
  intro s t h hr
  cases step_outcome h with
  | idle => simp_all
  | @completed i u hc _ hu =>
    obtain ⟨hn, c, hp, -⟩ := completing_eq_some.mp hc
    have herr : u.complete.err = s.err := by rw [effect_ok_frame hu]; rfl
    rw [herr]
    exact ⟨fun _ => nofun, fun he he' => by simp [he] at he', fun _ _ => ⟨hn, by simp [State.busy, hp], rfl⟩,
      fun he he' => by simp [he] at he'⟩
  | failed hn hp he =>
    exact ⟨fun _ => nofun, fun _ => nofun, fun _ _ => ⟨hn, by simp [State.busy, hp], rfl⟩,
      fun _ _ => .inl ⟨hn, _, hp, he⟩⟩
  | answered => simp_all
  | @written a hn hl hw hr' =>
    obtain ⟨ho, e⟩ | ⟨hx, code, info, e⟩ | ⟨q, p, ed, ee, e, -, -⟩ :=
      busWrite_writes (s := s.advance) a.addr a.wdata hr' <;> rw [e]
    · refine ⟨fun hd hd' => ⟨a, hn, hl, hw, ho, ?_⟩, fun he he' => ⟨a, hn, hl, hw, ho, ?_⟩, fun hd hd' => ?_,
        fun he he' => ?_⟩
      · simpa [hd] using hd'
      · simpa [he] using he'
      · simp [hd] at hd'
      · simp [he] at he'
    · refine ⟨fun hd hd' => ?_, fun _ he' => ?_, fun hd hd' => ?_, fun _ _ => .inr ⟨a, hn, hl, hw, hx⟩⟩
      · simp [hd] at hd'
      · simp at he'
      · simp [hd] at hd'
    · simp_all
  | reset hr' => simp [hr] at hr'

/-! ## RESULT and the slots -/

/-- A step that is no reset writes slot storage and RESULT by the completion of a command without error, or not at all. -/
theorem step_slots_result (h : step s = .next t) (hr : s.nextTurn.isReset = false) :
    (t.slots = s.slots ∧ t.result = s.result) ∨
      ∃ i u, s.completing = some i ∧ firstError i s = none ∧ effect i s.advance = .ok u ∧ t = u.complete := by
  cases step_outcome h with
  | idle => exact .inl ⟨rfl, rfl⟩
  | completed hc hf hu => exact .inr ⟨_, _, hc, hf, hu, rfl⟩
  | failed => exact .inl ⟨rfl, rfl⟩
  | answered => exact .inl ⟨rfl, rfl⟩
  | @written a _ _ _ hr' =>
    left
    obtain ⟨-, e⟩ | ⟨-, code, info, e⟩ | ⟨q, p, ed, ee, e, -, -⟩ :=
      busWrite_writes (s := s.advance) a.addr a.wdata hr' <;> simp [e]
  | reset hr' => simp [hr] at hr'

/-- Settles O26: RESULT is written by a rule whose checks passed. -/
theorem resultChangesOnlyAtErrorFreeCompletion : Obligations.ResultChangesOnlyAtErrorFreeCompletion := by
  intro s t h hr hne
  obtain ⟨-, hres⟩ | ⟨i, u, hc, hf, -, rfl⟩ := step_slots_result h hr
  · exact absurd hres hne
  · exact ⟨i, hc, hf, rfl, rfl⟩

/-- Settles O29: a rule changes the slot its command writes only, and its size only when it installs a filter. -/
theorem slotsChangeOnlyByTheirCommands : Obligations.SlotsChangeOnlyByTheirCommands := by
  intro s t h hr d
  obtain ⟨hslots, -⟩ | ⟨i, u, hc, hf, hu, rfl⟩ := step_slots_result h hr
  · have hd : t.slotAt d = s.slotAt d := congrArg (Memory.slot · d) hslots
    refine ⟨fun hne => absurd hd hne, fun f g hs ht hne => ?_⟩
    rw [hd, hs] at ht
    cases ht
    exact absurd rfl hne
  · constructor
    · intro hne
      refine ⟨i, hc, hf, ?_⟩
      by_contra hw
      have hsame := effect_ok_slotAt hu (Bool.eq_false_of_not_eq_true hw)
      exact hne hsame
    · intro f g hs ht hne
      refine ⟨i, hc, ?_⟩
      by_contra he
      exact hne (effect_ok_size hu (Bool.eq_false_of_not_eq_true he) hs ht)

/-! ## The frames of the commands -/

/-- The host's fields and, unless a check fails, the error record and ERR are no command's to write. -/
theorem exec_frame (h : exec i s = .next t) :
    t.cfg = s.cfg ∧ t.ieDone = s.ieDone ∧ t.ieErr = s.ieErr ∧ t.turns = s.turns ∧ t.responses = s.responses ∧
      (firstError i s = none → t.err = s.err ∧ t.errCode = s.errCode ∧ t.errInfo = s.errInfo) := by
  obtain ⟨-, u, hu, rfl⟩ | ⟨e, he, rfl⟩ := exec_cases h
  · rw [effect_ok_frame hu]
    exact ⟨rfl, rfl, rfl, rfl, rfl, fun _ => ⟨rfl, rfl, rfl⟩⟩
  · exact ⟨rfl, rfl, rfl, rfl, rfl, fun hn => by simp [hn] at he⟩

/-- Storage and ARGQ are written by a rule whose checks pass, or not at all (R203). -/
theorem exec_slots_argq (h : exec i s = .next t) :
    (t.slots = s.slots ∧ t.argq = s.argq) ∨ ∃ u, effect i s = .ok u ∧ t.slots = u.slots ∧ t.argq = u.argq := by
  obtain ⟨-, u, hu, rfl⟩ | ⟨e, he, rfl⟩ := exec_cases h
  · exact .inr ⟨u, hu, rfl, rfl⟩
  · exact .inl ⟨rfl, rfl⟩

/-- Settles O30: a rule that writes no slot writes RESULT and takes its operands, and only CONTAINS has any. -/
theorem readingCommandsFrame : Obligations.ReadingCommandsFrame := by
  intro i s t hw h
  obtain ⟨hcfg, hed, hee, hturns, hresp, herr⟩ := exec_frame h
  suffices t.slots = s.slots ∧ (t.argq = s.argq ∨ ∃ a n, i = .contains a n ∧ t.argq = s.argq.drop n) from
    ⟨this.1, hcfg, hed, hee, hturns, hresp, this.2, herr⟩
  obtain ⟨hslots, hq⟩ | ⟨u, hu, hslots, hq⟩ := exec_slots_argq h
  · exact ⟨hslots, .inl hq⟩
  · rw [hslots, hq, effect_ok_argq hu]
    constructor
    · obtain ⟨-, w, rfl⟩ | ⟨-, d, v, he, -⟩ | ⟨-, d, f, g, hd, -⟩ := effect_ok_cases hu
      · rfl
      · exact absurd (writesSlot_of_endsFilter he) (by simp [hw d])
      · simp [hw d] at hd
    · cases i <;> simp_all [operandsTaken, writesSlot]

/-- Only one filter is installed or released. -/
theorem endsFilter_unique {d d' : Nat} (h : endsFilter d i = true) (h' : endsFilter d' i = true) : d = d' := by
  cases i <;> simp_all [endsFilter]

/-- A rule that installs or releases a filter writes that slot and RESULT. -/
theorem effect_ok_of_endsFilter {d : Nat} (hd : endsFilter d i = true) (h : effect i s = .ok u) :
    ∃ v, u = (s.putSlot d v).setResultSlot d := by
  obtain ⟨hn, -⟩ | ⟨-, d', v, he, rfl, -⟩ | ⟨hn, -⟩ := effect_ok_cases h
  · exact absurd (writesSlot_of_endsFilter hd) (by simp [hn d])
  · obtain rfl := endsFilter_unique hd he
    exact ⟨v, rfl⟩
  · exact absurd hd (by simp [hn d])

theorem Memory.word_eq_of_slot_eq {m m' : Memory} {k : Nat} (h : m.slot k = m'.slot k) (j : Nat) :
    m.word k j = m'.word k j := by
  rw [Memory.word, h, Memory.word]

/-- Settles O31: such a rule writes its destination and RESULT. -/
theorem installingCommandsFrame : Obligations.InstallingCommandsFrame := by
  intro i d s t hd h
  obtain ⟨hcfg, hed, hee, hturns, hresp, herr⟩ := exec_frame h
  suffices (∀ k, k ≠ d → t.slots.slot k = s.slots.slot k) ∧ t.argq = s.argq from
    ⟨fun k j hk => Memory.word_eq_of_slot_eq (this.1 k hk) j, this.1, this.2, hcfg, hed, hee, hturns, hresp, herr⟩
  obtain ⟨hslots, hq⟩ | ⟨u, hu, hslots, hq⟩ := exec_slots_argq h
  · exact ⟨fun k _ => by rw [hslots], hq⟩
  · obtain ⟨v, rfl⟩ := effect_ok_of_endsFilter hd hu
    exact ⟨fun k hk => by rw [hslots]; exact Memory.slot_put_ne hk _ _, hq⟩

/-- Rewriting a filter changes only the words of that slot in which the two filters differ. -/
theorem Memory.word_put {m : Memory} {d k j : Nat} {f g : BloomFilter} (hf : m.slot d = some f)
    (h : k ≠ d ∨ g.words[j]? = f.words[j]?) : (m.put d (some g)).word k j = m.word k j := by
  by_cases hk : k = d
  · subst hk
    rw [Memory.word_of_slot (Memory.slot_put_same (Memory.lt_of_slot hf) _), Memory.word_of_slot hf]
    exact h.resolve_left (by simp)
  · exact Memory.word_eq_of_slot_eq (Memory.slot_put_ne hk _ _) j

/-- Rewriting a filter leaves every valid bit as it was. -/
theorem Memory.isSome_slot_put {m : Memory} {d : Nat} {f : BloomFilter} (hf : m.slot d = some f) (g : BloomFilter) (k : Nat) :
    ((m.put d (some g)).slot k).isSome = (m.slot k).isSome := by
  by_cases hk : k = d
  · subst hk
    rw [Memory.slot_put_same (Memory.lt_of_slot hf), hf]
    rfl
  · rw [Memory.slot_put_ne hk]

/-- ADD leaves every word alone that none of its hash values selects (R101, R111). -/
theorem getElem?_words_setBits {hs : List Word} {f : BloomFilter} {j : Nat} (h : ∀ w ∈ hs, j ≠ wordIndex w f.size) :
    (f.setBits hs).words[j]? = f.words[j]? := by
  induction hs generalizing f with
  | nil => rfl
  | cons w hs ih =>
    rw [BloomFilter.setBits_cons, ih (by simpa using fun x hx => h x (by simp [hx]))]
    exact List.getElem?_set_ne (h w (by simp)).symm

/-- What LOADW and ADD write when their checks pass: words of the filter in their slot, none but those the command names. -/
theorem effect_ok_of_wordWriting {d n : Nat} (hi : i = .loadw d n ∨ i = .add d n) (h : effect i s = .ok u) :
    ∃ f g, s.slotAt d = some f ∧ u.slots = s.slots.put d (some g) ∧
      ∀ j, (i = .loadw d n ∧ j ≠ n) ∨ (i = .add d n ∧ ∀ w ∈ s.argq.take n, j ≠ wordIndex w f.size) →
        g.words[j]? = f.words[j]? := by
  obtain rfl | rfl := hi
  · obtain ⟨f, hf, rfl⟩ := loadwEffect_ok h
    refine ⟨f, _, hf, rfl, fun j hj => List.getElem?_set_ne (Ne.symm ?_)⟩
    simpa using hj
  · obtain ⟨f, hf, rfl⟩ := addEffect_ok h
    exact ⟨f, _, hf, rfl, fun j hj => getElem?_words_setBits (by simpa [State.argFirst] using hj)⟩

/-- Settles O32: the words the rule names, and its operands. -/
theorem wordWritingCommandsFrame : Obligations.WordWritingCommandsFrame := by
  intro i d n s t hi h
  obtain ⟨hcfg, hed, hee, hturns, hresp, herr⟩ := exec_frame h
  obtain ⟨hslots, hq⟩ | ⟨u, hu, hslots, hq⟩ := exec_slots_argq h
  · exact ⟨fun k j _ => by rw [hslots], fun k => by rw [State.slotAt, hslots]; rfl, .inl hq, hcfg, hed, hee, hturns, hresp,
      herr⟩
  · obtain ⟨f, g, hf, hput, hwords⟩ := effect_ok_of_wordWriting hi hu
    rw [hput] at hslots
    refine ⟨fun k j hk => ?_, fun k => ?_, .inr ?_, hcfg, hed, hee, hturns, hresp, herr⟩
    · rw [hslots]
      refine Memory.word_put hf (hk.imp_right fun hj => hwords j ?_)
      exact hj.imp_right fun ⟨ha, hall⟩ => ⟨ha, fun w hw => hall w hw f hf⟩
    · rw [State.slotAt, hslots]
      exact Memory.isSome_slot_put hf g k
    · rw [hq, effect_ok_argq hu]
      obtain rfl | rfl := hi
      · exact .inl ⟨rfl, List.drop_one⟩
      · exact .inr ⟨rfl, rfl⟩

end Sys2Proof.Machine
end

section
/-! PROOFS. The bus port: every step answers, a refused access with an error (R53) and a read with its register (R60). -/

namespace Sys2Proof.Machine

variable {s : State} {a : BusAccess}

/-- Settles O10: `step_total`, by the agent whose move it is. -/
theorem everyStepEndsInANextState : Obligations.EveryStepEndsInANextState := step_total

/-! ## Refused accesses (R53) -/

/-- The accesses the block refuses: unaligned, or a write with a byte strobe low, or not of 4 bytes. -/
theorem BusAccess.legal_eq_false_iff :
    a.legal = false ↔ a.addr.extractLsb' 0 2 ≠ 0#2 ∨ (a.write = true ∧ a.wstrb ≠ 0xF#4) ∨ a.size ≠ 2#2 := by
  simp only [BusAccess.legal, Bool.and_eq_false_iff, Bool.or_eq_false_iff, Bool.not_eq_false', beq_eq_false_iff_ne]
  tauto

theorem hostAccess_refused (hl : a.legal = false) : s.hostAccess a = s.respond .busError := by
  simp [State.hostAccess, hl]

/-- Settles O12: each cause makes the access one that the block only answers. -/
theorem refusedAccessOnlyAnswersBusError : Obligations.RefusedAccessOnlyAnswersBusError := by
  intro s a hn hcause
  rw [step_host hn, hostAccess_refused (BusAccess.legal_eq_false_iff.mpr hcause)]
  rfl

/-! ## Reads (R60) -/

theorem hostAccess_read (hl : a.legal = true) (hw : a.write = false) :
    s.hostAccess a = s.respond (.data (s.busRead a.addr)) := by
  simp [State.hostAccess, hl, hw]

/-- A word made of four bytes has each of them as a field. -/
theorem extractLsb'_append_bytes (b3 b2 b1 b0 : Byte) :
    (b3 ++ b2 ++ b1 ++ b0).extractLsb' 0 8 = b0 ∧ (b3 ++ b2 ++ b1 ++ b0).extractLsb' 8 8 = b1 ∧
      (b3 ++ b2 ++ b1 ++ b0).extractLsb' 16 8 = b2 ∧ (b3 ++ b2 ++ b1 ++ b0).extractLsb' 24 8 = b3 := by
  refine ⟨BitVec.extractLsb'_append_eq_right, ?_, ?_, ?_⟩
  · rw [BitVec.extractLsb'_append_eq_of_le (by decide)]
    exact BitVec.extractLsb'_append_eq_right
  · rw [BitVec.extractLsb'_append_eq_of_le (by decide), BitVec.extractLsb'_append_eq_of_le (by decide)]
    exact BitVec.extractLsb'_append_eq_right
  · rw [BitVec.extractLsb'_append_eq_of_le (by decide), BitVec.extractLsb'_append_eq_of_le (by decide)]
    exact BitVec.extractLsb'_append_eq_left

/-- The fields of CONFIG (R34). -/
theorem configWord_fields (c : Config) :
    (configWord c).extractLsb' 0 8 = BitVec.ofNat 8 c.nslot ∧
      (configWord c).extractLsb' 8 8 = BitVec.ofNat 8 c.log2MaxWords ∧
      (configWord c).extractLsb' 16 8 = BitVec.ofNat 8 c.argqDepth ∧ (configWord c).extractLsb' 24 8 = 0x01#8 :=
  extractLsb'_append_bytes _ _ _ _

/-- No register stands above ERRINFO (R60). -/
theorem busRead_above_errInfo {off : Byte} (h : 0x24 ≤ off.toNat) : s.busRead off = 0#32 := by
  have hne (k : Byte) (hk : k.toNat < 0x24) : off ≠ k := by
    rintro rfl
    omega
  simp [State.busRead, hne]

/-- Settles O13: the register at each offset of R60, by its own fields. -/
theorem hostReadReturnsRegister : Obligations.HostReadReturnsRegister := by
  intro s a hn hl hw
  obtain ⟨hbusy, hdone, herr⟩ := statusWord_flags s
  obtain ⟨hlow, hcount, hhigh⟩ := statusWord_rest s
  refine ⟨s.busRead a.addr, ?_, ?_, ?_, ?_, ?_, ?_, ?_, ?_, ?_, ?_, busRead_above_errInfo⟩
  · rw [step_host hn, hostAccess_read hl hw]
    rfl
  all_goals intro ho; rw [ho]
  · rfl
  · exact configWord_fields s.cfg
  · exact ctrlWord_bits s
  · exact ⟨hbusy, hdone, herr, hlow, hcount, hhigh⟩
  all_goals rfl

end Sys2Proof.Machine
end

section
/-! PROOFS. The encoding: the worked examples, the round trips (R86, R90, R91), and which words are no command (R87, R88). -/

namespace Sys2Proof

/-! ## Decoding an encoded command, and the worked examples -/

/-- Settles O1: the thirteen words, evaluated. -/
theorem exampleWordsDecode : Obligations.ExampleWordsDecode := by
  unfold Obligations.ExampleWordsDecode
  decide

/-- Settles O2: the encoding matches its row, and its fields are the operands. -/
theorem decodeEncodeRoundTrip : Obligations.DecodeEncodeRoundTrip := fun _ => decode_encode

/-! ## The words of a row (R86, R90) -/

/-- Every mask of R86 covers OPC, so a word that matches a row carries the OPC of that row. -/
theorem fieldOpc_of_and_mask {c : Word} {o : Opcode} (h : c &&& o.mask = o.pattern) : fieldOpc c = o.opc := by
  have hmask : fieldOpc o.mask = BitVec.allOnes 8 := by cases o <;> decide
  calc fieldOpc c = fieldOpc c &&& fieldOpc o.mask := by rw [hmask, BitVec.and_allOnes]
    _ = fieldOpc (c &&& o.mask) := by simp [fieldOpc, BitVec.extractLsb'_and]
    _ = o.opc := by rw [h, fieldOpc_pattern]

/-- What the decoder accepts: the words that match some row, each as that row's command (R90). -/
theorem decode_eq_ok_iff {c : Word} {i : Instr} :
    decode c = .ok i ↔
      ∃ o : Opcode, c &&& o.mask = o.pattern ∧ o.build (fieldD c) (fieldA c) (fieldB c) (fieldImm c) = i := by
  constructor
  · intro h
    unfold decode at h
    split at h
    next => cases h
    next o _ =>
      split at h
      next hm => exact ⟨o, hm, by simpa using h⟩
      next => cases h
  · rintro ⟨o, hm, rfl⟩
    exact decode_of_row (fieldOpc_of_and_mask hm) hm

@[simp] theorem opcode_build (o : Opcode) (d a b n : Nat) : (o.build d a b n).opcode = o := by cases o <;> rfl

/-- Settles O4: the row of a decoded command is the one its word matches. -/
theorem wordIsCommandExactlyWhenItMatchesItsRow : Obligations.WordIsCommandExactlyWhenItMatchesItsRow := by
  intro c o
  constructor
  · rintro ⟨i, hd, rfl⟩
    obtain ⟨o, hm, rfl⟩ := decode_eq_ok_iff.mp hd
    rwa [opcode_build]
  · intro hm
    exact ⟨_, decode_eq_ok_iff.mpr ⟨o, hm, rfl⟩, opcode_build ..⟩

/-! ## Encoding a decoded command -/

/-- The fields of a word fit their operands (R84, R85). -/
theorem field_fits (c : Word) :
    slotFits (fieldD c) = true ∧ slotFits (fieldA c) = true ∧ slotFits (fieldB c) = true ∧ immFits (fieldImm c) = true := by
  simp only [slotFits_iff, immFits_iff]
  exact ⟨BitVec.isLt _, BitVec.isLt _, BitVec.isLt _, BitVec.isLt _⟩

/-- A row makes a well-formed command of operands that fit. -/
theorem wellFormed_build (o : Opcode) {d a b n : Nat}
    (h : slotFits d = true ∧ slotFits a = true ∧ slotFits b = true ∧ immFits n = true) : (o.build d a b n).wellFormed = true := by
  obtain ⟨hd, ha, hb, hn⟩ := h
  cases o <;> simp [Opcode.build, Instr.wellFormed, hd, ha, hb, hn]

/-- The fields of a word put back in their places are the word's bits in those places. -/
theorem put_fields (c : Word) :
    putD (fieldD c) = c &&& 0x00F00000#32 ∧ putA (fieldA c) = c &&& 0x000F0000#32 ∧
      putB (fieldB c) = c &&& 0x0000F000#32 ∧ putImm (fieldImm c) = c &&& 0x0000FFFF#32 := by
  refine ⟨put_field, put_field, put_field, ?_⟩
  rw [putImm_eq]
  exact put_field

/-- The fields that a row uses are exactly the bits its mask leaves out (R83, R86). -/
theorem encode_build_fields (o : Opcode) (c : Word) :
    encode (o.build (fieldD c) (fieldA c) (fieldB c) (fieldImm c)) = o.pattern ||| (c &&& ~~~o.mask) := by
  obtain ⟨hD, hA, hB, hI⟩ := put_fields c
  cases o <;> simp only [Opcode.build, encode, hD, hA, hB, hI, BitVec.or_assoc, ← BitVec.and_or_distrib_left] <;> rfl

/-- A word that matches a row is the encoding of the command the row makes of its fields. -/
theorem encode_build_of_and_mask {c : Word} {o : Opcode} (h : c &&& o.mask = o.pattern) :
    encode (o.build (fieldD c) (fieldA c) (fieldB c) (fieldImm c)) = c := by
  calc _ = (c &&& o.mask) ||| (c &&& ~~~o.mask) := by rw [encode_build_fields, h]
    _ = c := by rw [← BitVec.and_or_distrib_left, BitVec.or_not_self, BitVec.and_allOnes]

/-- Settles O3: the word matches the row of its command, whose fields and mask cover every bit of it. -/
theorem encodeDecodeRoundTrip : Obligations.EncodeDecodeRoundTrip := by
  intro c i hd
  obtain ⟨o, hm, rfl⟩ := decode_eq_ok_iff.mp hd
  refine ⟨wellFormed_build o (field_fits c), encode_build_of_and_mask hm, ?_⟩
  rw [opcode_build, fieldOpc_of_and_mask hm]

/-! ## Unassigned opcodes (R88) -/

theorem Opcode.mem_all (o : Opcode) : o ∈ Opcode.all := by cases o <;> decide

theorem ofByte_eq_none_iff {b : Byte} : Opcode.ofByte b = none ↔ ∀ o : Opcode, o.opc ≠ b := by
  simp [Opcode.ofByte, Opcode.mem_all]

/-- A byte that no row has differs from each of the thirteen. -/
theorem ne_of_mem_opcs {b : Byte} (h : ∀ o : Opcode, o.opc ≠ b) : ∀ k ∈ Opcode.all.map Opcode.opc, b ≠ k := by
  simpa using fun o _ => (h o).symm

/-! ## Must-be-zero bits (R87) -/

/-- A field is 0 exactly when the word has no bit under the field's mask. -/
theorem extractLsb'_eq_zero_iff {c : Word} {k w : Nat} (h : k + w ≤ 32) :
    c.extractLsb' k w = 0#w ↔ c &&& (BitVec.ofNat 32 (2 ^ w - 1) <<< k) = 0#32 := by
  rw [← put_field]
  constructor
  · intro h0
    simp [h0]
  · intro h0
    calc c.extractLsb' k w = BitVec.ofNat w (c.extractLsb' k w).toNat := by rw [BitVec.ofNat_toNat, BitVec.setWidth_eq]
      _ = (BitVec.ofNat 32 (c.extractLsb' k w).toNat <<< k).extractLsb' k w := (put_ext_same h).symm
      _ = 0#w := by rw [h0, BitVec.extractLsb'_zero]

/-- The must-be-zero fields of R87, each with its bits: D, A, Z12 and IMM16. -/
theorem mustBeZero_fields (c : Word) :
    (c.extractLsb' 20 4 = 0#4 ↔ c &&& 0x00F00000#32 = 0#32) ∧ (c.extractLsb' 16 4 = 0#4 ↔ c &&& 0x000F0000#32 = 0#32) ∧
      (c.extractLsb' 0 12 = 0#12 ↔ c &&& 0x00000FFF#32 = 0#32) ∧ (c.extractLsb' 0 16 = 0#16 ↔ c &&& 0x0000FFFF#32 = 0#32) :=
  ⟨extractLsb'_eq_zero_iff (by decide), extractLsb'_eq_zero_iff (by decide), extractLsb'_eq_zero_iff (by decide),
    extractLsb'_eq_zero_iff (by decide)⟩

/-- Two sets of bits are both 0 exactly when their union is. -/
theorem and_or_eq_zero_iff {c m n : Word} : c &&& (m ||| n) = 0#32 ↔ c &&& m = 0#32 ∧ c &&& n = 0#32 := by
  rw [BitVec.and_or_distrib_left, BitVec.or_eq_zero_iff]

/-- A word with the OPC of a row and a must-be-zero bit set does not match the row. -/
theorem decode_of_mustBeZero_bit {c : Word} {o : Opcode} (hop : fieldOpc c = o.opc)
    (h : c &&& o.mask &&& 0x00FFFFFF#32 ≠ 0#32) : decode c = .reservedField := by
  have hm : c &&& o.mask ≠ o.pattern := by
    intro e
    refine h ?_
    rw [e]
    cases o <;> decide
  simp [decode, hop, ofByte_opc, hm]

end Sys2Proof
end

section
/-! PROOFS. The errors of decoding as the engine raises them (R87, R88). -/

namespace Sys2Proof.Machine

variable {s : State} {c : Word}

/-- The engine's move on a busy block executes PENDING (R29). -/
theorem step_pending (hn : s.nextTurn = .engine) (hp : s.pending = some c) : step s = execute c s.advance := by
  rw [step_engine hn, engineTurn_some (s := s.advance) hp]

theorem execute_illegalOpcode (h : decode c = .illegalOpcode) : execute c s = .next (s.failed 0x01#8 (fieldOpc c) c) := by
  simp only [execute, h, finish_error, recordError_complete, ErrCode.byte]

theorem execute_reservedField (h : decode c = .reservedField) : execute c s = .next (s.failed 0x02#8 (fieldOpc c) c) := by
  simp only [execute, h, finish_error, recordError_complete, ErrCode.byte]

/-- The ranges of R88 hold exactly the bytes that no row of R86 has. -/
theorem unassignedOpc_iff {b : Byte} : unassignedOpc b = true ↔ ∀ o : Opcode, o.opc ≠ b := by
  constructor
  · rintro h o rfl
    revert h
    cases o <;> decide
  · intro h
    have hne := ne_of_mem_opcs h
    simp only [Opcode.all, Opcode.opc, List.map_cons, List.map_nil, List.forall_mem_cons, ← BitVec.toNat_inj.ne,
      BitVec.toNat_ofNat] at hne
    have hb := b.isLt
    simp only [unassignedOpc, Bool.or_eq_true, Bool.and_eq_true, beq_iff_eq, decide_eq_true_eq]
    omega

theorem decode_of_unassigned (h : unassignedOpc (fieldOpc c) = true) : decode c = .illegalOpcode := by
  simp [decode, ofByte_eq_none_iff.mpr (unassignedOpc_iff.mp h)]

/-- Settles O5: no row has the word's OPC, so it decodes to the error. -/
theorem unassignedOpcodeRaisesIllegalOpcode : Obligations.UnassignedOpcodeRaisesIllegalOpcode := by
  refine ⟨fun s c hn hp hu => ?_, fun b => unassignedOpc_iff, by decide⟩
  rw [step_pending hn hp, execute_illegalOpcode (decode_of_unassigned hu)]

/-- The fields that R87 lists for a row are the bits of the row's mask outside OPC. -/
theorem mustBeZeroBroken_eq_false_iff {o : Opcode} (h : fieldOpc c = o.opc) :
    mustBeZeroBroken c = false ↔ c &&& o.mask &&& 0x00FFFFFF#32 = 0#32 := by
  obtain ⟨hD, hA, hZ, hI⟩ := mustBeZero_fields c
  rw [BitVec.and_assoc]
  cases o <;> simp [mustBeZeroBroken, h, Opcode.opc, Opcode.mask, hD, hA, hZ, hI, ← and_or_eq_zero_iff]

theorem mustBeZeroBroken_iff {o : Opcode} (h : fieldOpc c = o.opc) :
    mustBeZeroBroken c = true ↔ c &&& o.mask &&& 0x00FFFFFF#32 ≠ 0#32 := by
  rw [Ne, ← mustBeZeroBroken_eq_false_iff h, Bool.not_eq_false]

/-- Only assigned opcodes have must-be-zero bits (R87). -/
theorem opc_of_mustBeZeroBroken (h : mustBeZeroBroken c = true) : ∃ o : Opcode, fieldOpc c = o.opc := by
  by_contra hno
  have hne := ne_of_mem_opcs fun o e => hno ⟨o, e.symm⟩
  simp only [Opcode.all, Opcode.opc, List.map_cons, List.map_nil, List.forall_mem_cons] at hne
  simp [mustBeZeroBroken, hne] at h

/-- Settles O6: the broken bit is in the mask of the word's row, so the word does not match the row. -/
theorem mustBeZeroBitRaisesReservedField : Obligations.MustBeZeroBitRaisesReservedField := by
  refine ⟨fun s c hn hp hz => ?_, fun c o hop => mustBeZeroBroken_iff hop⟩
  obtain ⟨o, hop⟩ := opc_of_mustBeZeroBroken hz
  rw [step_pending hn hp, execute_reservedField (decode_of_mustBeZero_bit hop ((mustBeZeroBroken_iff hop).mp hz))]

end Sys2Proof.Machine
end

section
/-! PROOFS. The bits of a filter: the one a hash value selects, for every size (R104), those that ADD and CONTAINS work on (R111,
R112), and their number (R182). -/

namespace Sys2Proof.Machine

/-- `WordIndex` is a remainder for every power of two: from 2^32 on the mask of 32 ones keeps the whole word number (R101). -/
theorem wordIndex_eq_mod {n : Nat} (hp : isPow2 n = true) (h : Word) : wordIndex h n = h.toNat / 32 % n := by
  obtain ⟨k, rfl⟩ := isPow2_iff.mp hp
  by_cases hk : k ≤ 31
  · exact wordIndex_eq hp (Nat.pow_le_pow_right (by decide) hk)
  · have hmask : BitVec.ofNat 32 (2 ^ k) - 1#32 = BitVec.allOnes 32 := by
      have hz : BitVec.ofNat 32 (2 ^ k) = 0#32 := by
        apply BitVec.eq_of_toNat_eq
        simpa using Nat.mod_eq_zero_of_dvd (Nat.pow_dvd_pow 2 (show 32 ≤ k by omega))
      rw [hz]
      decide
    have hlarge : 2 ^ 32 ≤ 2 ^ k := Nat.pow_le_pow_right (by decide) (by omega)
    have hlt := h.isLt
    rw [wordIndex, hmask, BitVec.and_allOnes, BitVec.toNat_ushiftRight, Nat.shiftRight_eq_div_pow, Nat.mod_eq_of_lt]
    omega

/-- The bit number a hash value selects (R104). -/
theorem bitNumber_eq_mod {n : Nat} (hp : isPow2 n = true) (h : Word) :
    32 * wordIndex h n + bitIndex h = h.toNat % (32 * n) := by
  rw [wordIndex_eq_mod hp, bitIndex_eq, mod_split]

/-- Elements with either of two properties are at most those with the one and those with the other together. -/
theorem countP_or_le {α : Type} (p q : α → Bool) (l : List α) :
    l.countP (fun a => p a || q a) ≤ l.countP p + l.countP q := by
  induction l with
  | nil => simp
  | cons a l ih =>
    simp only [List.countP_cons, Bool.or_eq_true]
    split_ifs <;> grind

namespace BloomFilter

variable {f : BloomFilter}

/-- `GetBit` reads bit number `h mod (32 * size)`, whatever the power of two (R103, R104). -/
theorem getBit_eq_bit_mod (hp : isPow2 f.size = true) (h : Word) : f.getBit h = f.bit (h.toNat % (32 * f.size)) := by
  have hb := bitIndex_lt h
  rw [getBit_eq, ← bitNumber_eq_mod hp, bit, Nat.mul_add_div (by decide), Nat.mul_add_mod, Nat.div_eq_of_lt hb,
    Nat.mod_eq_of_lt hb, Nat.add_zero]

/-- CONTAINS tests the bits its hash values select (R112). -/
theorem getBits_eq_all (hp : isPow2 f.size = true) (hs : List Word) :
    f.getBits hs = hs.all fun h => f.bit (h.toNat % (32 * f.size)) :=
  congrArg hs.all (funext (getBit_eq_bit_mod hp))

/-- ADD sets the bits its hash values select and no other (R111). -/
theorem bit_setBits (hp : isPow2 f.size = true) (hn : f.size ≤ 2 ^ 31) (hs : List Word) (b : Nat) :
    (f.setBits hs).bit b = (f.bit b || hs.any fun h => h.toNat % (32 * f.size) == b) := by
  induction hs generalizing f with
  | nil => simp
  | cons h hs ih =>
    have ih' := ih (f := f.setBit h) (by rwa [size_setBit]) (by rwa [size_setBit])
    rw [setBits_cons, ih', bit_setBit hp hn, size_setBit, List.any_cons, Bool.or_assoc]

/-- The words of a filter after one of them is overwritten (R108). -/
theorem word_set (f : BloomFilter) (i j : Nat) (v : Word) :
    (BloomFilter.mk (f.words.set i v)).word j = if i = j ∧ j < f.size then v else f.word j := by
  simp only [word, size, List.getD_eq_getElem?_getD, List.getElem?_set]
  by_cases hij : i = j <;> by_cases hj : j < f.words.length <;> simp [hij, hj]

/-- Overwriting a word keeps a set bit unless it is a bit of that word that the new word has clear (R108, R113). -/
theorem bit_set_of_bit {g i : Nat} {v : Word} (hg : f.bit g = true) (hv : i = g / 32 → v.getLsbD (g % 32) = true) :
    (BloomFilter.mk (f.words.set i v)).bit g = true := by
  rw [bit, word_set]
  split
  · next h => exact hv h.1
  · exact hg

/-! ## The number of set bits (R182) -/

/-- The density of a filter is the number of the set bits of its bit vector. -/
theorem density_eq_countP_bit (f : BloomFilter) : density f.words = (List.range (32 * f.size)).countP f.bit := by
  obtain ⟨ws⟩ := f
  induction ws with
  | nil => rfl
  | cons w ws ih =>
    have hfirst : (List.range 32).countP (mk (w :: ws)).bit = popcount32 w := by
      refine List.countP_congr fun b hb => ?_
      rw [List.mem_range] at hb
      simp [bit, word, Nat.div_eq_of_lt hb, Nat.mod_eq_of_lt hb]
    have hrest : (mk (w :: ws)).bit ∘ (32 + ·) = (mk ws).bit := by
      funext b
      simp [bit, word]
    have hsize : 32 * (mk (w :: ws)).size = 32 + 32 * (mk ws).size := by simp [size]; omega
    rw [hsize, List.range_add, List.countP_append, List.countP_map, hfirst, hrest, ← ih]
    simp [density]

/-- One more hash value clears no bit and sets at most one. -/
theorem density_setBit (hp : isPow2 f.size = true) (hn : f.size ≤ 2 ^ 31) (h : Word) :
    density f.words ≤ density (f.setBit h).words ∧ density (f.setBit h).words ≤ density f.words + 1 := by
  rw [density_eq_countP_bit, density_eq_countP_bit, size_setBit, funext (bit_setBit hp hn h)]
  constructor
  · exact List.countP_mono_left fun b _ hb => by simp [hb]
  · have hone : (List.range (32 * f.size)).countP (h.toNat % (32 * f.size) == ·) ≤ 1 := by
      rw [funext fun _ => BEq.comm]
      exact List.nodup_iff_count_le_one.mp List.nodup_range _
    exact (countP_or_le _ _ _).trans (Nat.add_le_add_left hone _)

/-- ADD clears no bit and sets at most one for each hash value (R114). -/
theorem density_setBits (hp : isPow2 f.size = true) (hn : f.size ≤ 2 ^ 31) (hs : List Word) :
    density f.words ≤ density (f.setBits hs).words ∧ density (f.setBits hs).words ≤ density f.words + hs.length := by
  induction hs generalizing f with
  | nil => simp
  | cons h hs ih =>
    obtain ⟨hle, hle'⟩ := density_setBit hp hn h
    obtain ⟨ih₁, ih₂⟩ := ih (f := f.setBit h) (by rwa [size_setBit]) (by rwa [size_setBit])
    rw [setBits_cons, List.length_cons]
    omega

end BloomFilter

/-- Settles O49: `WordIndex` and `BitIndex` are the quotient and the remainder by 32 of one remainder. -/
theorem hashValueSelectsBitModuloTotalBits : Obligations.HashValueSelectsBitModuloTotalBits :=
  ⟨fun h _ hn => bitNumber_eq_mod (isPow2_iff.mpr hn) h,
    fun _ h hn => BloomFilter.getBit_eq_bit_mod (isPow2_iff.mpr hn) h, by decide⟩

/-- Settles O51: each law is one of the disjunction that says which bits are set, or of the number of bits. -/
theorem addIsOrderFreeIdempotentAndMonotone : Obligations.AddIsOrderFreeIdempotentAndMonotone := by
  intro f hs ks hp hn
  have hn' : f.size ≤ 2 ^ 31 := hn.trans (by decide)
  have hbit := BloomFilter.bit_setBits hp hn'
  refine ⟨fun hperm => ?_, (BloomFilter.setBits_append f hs ks).symm, ?_, fun b hb => ?_,
    BloomFilter.density_setBits hp hn' hs⟩
  · refine BloomFilter.ext_bit (by simp) fun b _ => ?_
    rw [hbit, hbit, hperm.any_eq]
  · refine BloomFilter.ext_bit (by simp) fun b _ => ?_
    rw [BloomFilter.bit_setBits (by simpa using hp) (by simpa using hn'), BloomFilter.size_setBits, hbit, Bool.or_assoc,
      Bool.or_self]
  · rw [hbit, hb, Bool.true_or]

end Sys2Proof.Machine
end

section
/-! PROOFS. What the commands of `40_storage_membership.md` do: the error of the first failing check (R204), and the state each
leaves when its checks pass (R106 to R112). -/

namespace Sys2Proof.Machine

variable {s t : State}

/-- Settles O22: a rule runs its checks in the order of R204 and ends in the error of the first that fails. -/
theorem firstFailingCheckIsReported : Obligations.FirstFailingCheckIsReported := by
  intro i s e he
  obtain ⟨e', he', hx⟩ | ⟨hn, -⟩ := effect_cases i s
  · obtain rfl := Option.some.inj (he.symm.trans he')
    rw [exec_eq_finish, hx, finish_error, recordError_complete]
  · simp [hn] at he

/-! ## A filter in a slot -/

theorem slots_wf_of_wf (hw : s.wf = true) : s.slots.wf s.cfg = true := by
  obtain ⟨-, hslots, -⟩ := State.wf_iff.mp hw
  exact hslots

/-- A filter in storage has a legal size (R21), at most 32768 words in every legal block (R6). -/
theorem State.size_of_wf {n : Nat} {f : BloomFilter} (hw : s.wf = true) (hf : s.slotAt n = some f) :
    isPow2 f.size = true ∧ f.size ≤ s.cfg.maxWords ∧ f.size ≤ 32768 := by
  obtain ⟨hcfg, hslots, -, -⟩ := State.wf_iff.mp hw
  obtain ⟨hp, hm⟩ := BloomFilter.wf_iff.mp (Memory.filter_wf hslots hf)
  exact ⟨hp, hm, hm.trans (maxWords_le hcfg)⟩

/-- A filter in storage is small enough for the arithmetic of R101. -/
theorem State.size_fits_of_wf {n : Nat} {f : BloomFilter} (hw : s.wf = true) (hf : s.slotAt n = some f) :
    isPow2 f.size = true ∧ f.size ≤ 2 ^ 31 := by
  obtain ⟨hp, -, hn⟩ := State.size_of_wf hw hf
  exact ⟨hp, hn.trans (by decide)⟩

/-- A slot that holds a filter is a slot of the block (R20). -/
theorem lt_nslot_of_slotAt {n : Nat} {f : BloomFilter} (hw : s.wf = true) (hf : s.slotAt n = some f) : n < s.cfg.nslot := by
  rw [← Memory.length_of_wf (slots_wf_of_wf hw)]
  exact Memory.lt_of_slot hf

/-- A command that writes slot `d` leaves there what it wrote, and every other slot as it was (R22). -/
theorem slotAt_after_putSlot {d : Nat} (hw : s.slots.wf s.cfg = true) (hd : d < s.cfg.nslot) (v : Option BloomFilter) :
    ((s.putSlot d v).setResultSlot d).complete.slotAt d = v ∧
      ∀ k, k ≠ d → ((s.putSlot d v).setResultSlot d).complete.slotAt k = s.slotAt k := by
  rw [← Memory.length_of_wf hw] at hd
  exact ⟨Memory.slot_put_same hd v, fun k hk => Memory.slot_put_ne hk _ _⟩

/-! ## The commands -/

/-- Settles O36: the state CONSTRUCT leaves is the old one with a zero filter put in slot `d`. -/
theorem constructMakesZeroFilter : Obligations.ConstructMakesZeroFilter := by
  intro s d n hw hd hn hm
  obtain ⟨hsame, hother⟩ := slotAt_after_putSlot (slots_wf_of_wf hw) hd (some (.zero n))
  refine ⟨_, _, execConstruct_ok hd (isPow2_iff.mpr hn) hm, hsame, BloomFilter.size_zero n, fun j hj => ?_, hother, rfl⟩
  rw [BloomFilter.getElem?_words (by rwa [BloomFilter.size_zero]), BloomFilter.word_zero]

/-- Settles O37: the state RELEASE leaves is the old one with nothing in slot `d`. -/
theorem releaseMakesSlotInvalid : Obligations.ReleaseMakesSlotInvalid := by
  intro s d hw hd
  obtain ⟨hsame, hother⟩ := slotAt_after_putSlot (slots_wf_of_wf hw) hd none
  exact ⟨_, execRelease_ok hd, hsame, hother, rfl⟩

/-- Settles O38: the state LOADW leaves is that after `ArgPop()` with one word of the filter overwritten. -/
theorem loadwWritesOneWord : Obligations.LoadwWritesOneWord := by
  intro s d i f v q hw hd hf hi hq
  have hslots := slots_wf_of_wf hw
  have hcount : 1 ≤ s.argCount := by simp [State.argCount, hq]
  have hfront : s.argFront = v := by simp [State.argFront, hq]
  have hrest : s.argPop.argq = q := by simp [hq]
  obtain ⟨hsame, hother⟩ := slotAt_after_putSlot (s := s.argPop) hslots hd
    (some { words := f.words.set i s.argFront })
  refine ⟨_, _, execLoadw_ok hd hf hi hcount, hsame, ?_, ?_, fun j hj => ?_, hother, ?_⟩
  · simp [BloomFilter.size]
  · rw [hfront]
    exact List.getElem?_set_self hi
  · exact List.getElem?_set_ne hj.symm
  · rw [← hrest]
    rfl

/-- Settles O39: a word that the filter has is inside it. -/
theorem readwReturnsTheWord : Obligations.ReadwReturnsTheWord := by
  intro s a i f v ha hf hv
  obtain ⟨hi, -⟩ := List.getElem?_eq_some_iff.mp hv
  have hword : f.word i = v := Option.some.inj ((BloomFilter.getElem?_words hi).symm.trans hv)
  rw [← hword]
  exact execReadw_ok ha hf hi

/-- Settles O40: a legal size fits RESULT. -/
theorem getsizeReturnsTheWordCount : Obligations.GetsizeReturnsTheWordCount := by
  intro s a f hw ha hf
  obtain ⟨hp, hm, hn⟩ := State.size_of_wf hw hf
  have hres : (s.setResult (BitVec.ofNat 32 f.size)).complete.result.toNat = f.size := by
    simp only [State.complete_result, State.setResult_result, BitVec.toNat_ofNat]
    omega
  exact ⟨_, execGetsize_ok ha hf, hres, by rw [hres]; exact isPow2_iff.mp hp, hres.trans_le hm, rfl⟩

/-- Settles O41: the state ADD leaves is that after `n` times `ArgPop()` with the bits of those operands set. -/
theorem addSetsTheBitsOfItsOperands : Obligations.AddSetsTheBitsOfItsOperands := by
  intro s d n f hw hd hf hn
  have hslots := slots_wf_of_wf hw
  obtain ⟨hp, hsize⟩ := State.size_fits_of_wf hw hf
  obtain ⟨hsame, hother⟩ := slotAt_after_putSlot (s := s.argDrop n) hslots hd
    (some (f.setBits (s.argFirst n)))
  exact ⟨_, _, execAdd_ok hd hf hn, hsame, BloomFilter.size_setBits _ _, fun b _ => BloomFilter.bit_setBits hp hsize _ b,
    hother, rfl⟩

/-- Settles O42: the bits CONTAINS tests are those R104 names. -/
theorem containsTestsTheBitsOfItsOperands : Obligations.ContainsTestsTheBitsOfItsOperands := by
  intro s a n f hw ha hf hn
  obtain ⟨hp, -⟩ := State.size_fits_of_wf hw hf
  refine (execContains_ok ha hf hn).trans ?_
  rw [BloomFilter.getBits_eq_all hp]
  rfl

end Sys2Proof.Machine
end

section
/-! PROOFS. No false negatives (R113): a bit that ADD set stays set along every run that does not end the filter or clear it. -/

namespace Sys2Proof.Machine

variable {s t u : State} {i : Instr} {d g : Nat}

/-! ## Runs -/

/-- A property that every step of a kind keeps is kept by every run of such steps. -/
theorem runSteps_keeps {P Q : State → Prop} (hstep : ∀ a b, P a → Q a → step a = .next b → P b) {k : Nat}
    (hs : P s) (hrun : runSteps k s = .next t)
    (hq : ∀ (j : Nat) (a : State), j < k → runSteps j s = .next a → Q a) : P t := by
  induction k generalizing s with
  | zero =>
    cases hrun
    exact hs
  | succ k ih =>
    obtain ⟨b, hb⟩ := step_total s
    refine ih (hstep s b hs (hq 0 s (Nat.succ_pos k) rfl) hb) (by rwa [runSteps_succ hb] at hrun) fun j a hj ha => ?_
    exact hq (j + 1) a (Nat.succ_lt_succ hj) (by rwa [runSteps_succ hb])

/-- A command keeps the invariant, whether it succeeds or ends in an error. -/
theorem exec_wf (h : exec i s = .next t) (hw : s.wf = true) : t.wf = true := by
  obtain ⟨-, u, hu, rfl⟩ | ⟨e, -, rfl⟩ := exec_cases h
  · have hu' := effect_ok_wf hu hw
    exact hu'
  · rw [← recordError_complete]
    exact recordError_wf hw _ _ _

/-! ## The bit -/

/-- Slot `d` holds a filter of `n` words in which bit number `g` is set. -/
def HoldsBit (d n g : Nat) (s : State) : Prop := ∃ f, s.slotAt d = some f ∧ f.size = n ∧ f.bit g = true

/-- A command that writes a slot without ending its filter is LOADW or ADD (R22). -/
theorem wordWriting_of_writesSlot (hw : writesSlot d i = true) (he : endsFilter d i = false) :
    (∃ j, i = .loadw d j) ∨ ∃ n, i = .add d n := by
  cases i <;> simp_all [writesSlot, endsFilter]

/-- A LOADW that clears no bit overwrites another word, or has the bit set in its operand. -/
theorem clearsBit_loadw {j : Nat} (h : clearsBit d g s (.loadw d j) = false) :
    j = g / 32 → s.argFront.getLsbD (g % 32) = true := by
  simpa [clearsBit] using h

/-- A rule keeps a set bit of a filter that it neither ends nor overwrites with the bit clear (R113). -/
theorem effect_ok_holdsBit {n : Nat} (h : effect i s = .ok u) (he : endsFilter d i = false) (hc : clearsBit d g s i = false)
    (hw : s.wf = true) (hb : HoldsBit d n g s) : HoldsBit d n g u := by
  obtain ⟨f, hf, hn, hg⟩ := hb
  have hlt := Memory.lt_of_slot hf
  cases hwr : writesSlot d i with
  | false => exact ⟨f, by rw [effect_ok_slotAt h hwr, hf], hn, hg⟩
  | true =>
    obtain ⟨j, rfl⟩ | ⟨m, rfl⟩ := wordWriting_of_writesSlot hwr he
    · obtain ⟨f', hf', rfl⟩ := loadwEffect_ok h
      obtain rfl := Option.some.inj (hf.symm.trans hf')
      exact ⟨_, Memory.slot_put_same hlt _, by simpa [BloomFilter.size] using hn,
        BloomFilter.bit_set_of_bit hg (clearsBit_loadw hc)⟩
    · obtain ⟨f', hf', rfl⟩ := addEffect_ok h
      obtain rfl := Option.some.inj (hf.symm.trans hf')
      obtain ⟨hp, hsize⟩ := State.size_fits_of_wf hw hf
      exact ⟨_, Memory.slot_put_same hlt _, by simpa using hn, by rw [BloomFilter.bit_setBits hp hsize, hg, Bool.true_or]⟩

/-- What a step that loses no bit is: no reset, and a command it completes without error neither ends the filter nor clears the
bit. -/
theorem losesBit_eq_false (h : s.losesBit d g = false) : s.nextTurn.isReset = false ∧
    ∀ i, s.completing = some i → firstError i s = none → endsFilter d i = false ∧ clearsBit d g s i = false := by
  rw [State.losesBit, Bool.or_eq_false_iff] at h
  refine ⟨h.1, fun i hc hf => ?_⟩
  simpa [hc, hf] using h.2

/-- The bit a LOADW clears is told by ARGQ, not by the moves to come. -/
theorem clearsBit_advance : clearsBit d g s.advance i = clearsBit d g s i := by cases i <;> rfl

/-- A step that does not lose the bit keeps it set. -/
theorem step_holdsBit {n : Nat} (h : step s = .next t) (hl : s.losesBit d g = false) (hw : s.wf = true)
    (hb : HoldsBit d n g s) : HoldsBit d n g t := by
  obtain ⟨hr, hcmd⟩ := losesBit_eq_false hl
  obtain ⟨hslots, -⟩ | ⟨i, u, hc, hf, hu, rfl⟩ := step_slots_result h hr
  · rwa [HoldsBit, State.slotAt, hslots]
  · obtain ⟨he, hcl⟩ := hcmd i hc hf
    have hu' : HoldsBit d n g u := effect_ok_holdsBit hu he (clearsBit_advance.trans hcl) hw hb
    exact hu'

/-- ADD sets the bit of each hash value it consumes (R111). -/
theorem execAdd_holdsBit {n : Nat} {f : BloomFilter} {h : Word} (hw : s.wf = true) (hf : s.slotAt d = some f)
    (hm : h ∈ s.argFirst n) :
    HoldsBit d f.size (h.toNat % (32 * f.size))
      (((s.argDrop n).putSlot d (some (f.setBits (s.argFirst n)))).setResultSlot d).complete := by
  obtain ⟨hp, hsize⟩ := State.size_fits_of_wf hw hf
  refine ⟨_, Memory.slot_put_same (Memory.lt_of_slot hf) _, BloomFilter.size_setBits _ _, ?_⟩
  have hany : ((s.argFirst n).any fun x => x.toNat % (32 * f.size) == h.toNat % (32 * f.size)) = true :=
    List.any_eq_true.mpr ⟨h, hm, by simp⟩
  rw [BloomFilter.bit_setBits hp hsize, hany, Bool.or_true]

/-- CONTAINS of one hash value whose bit is set gives RESULT 1 (R112). -/
theorem execContains_of_holdsBit {n : Nat} {h : Word} (hw : t.wf = true) (hb : HoldsBit d n (h.toNat % (32 * n)) t) :
    ∃ r, exec (.contains d 1) { t with argq := h :: t.argq } = .next r ∧ r.result = 1#32 := by
  obtain ⟨f, hf, rfl, hg⟩ := hb
  have hd := lt_nslot_of_slotAt hw hf
  obtain ⟨hp, -⟩ := State.size_fits_of_wf hw hf
  refine ⟨_, execContains_ok (s := { t with argq := h :: t.argq }) hd hf (Nat.le_add_left 1 _), ?_⟩
  rw [State.complete_result, State.setResult_result, BloomFilter.getBits_eq_all hp]
  simp [State.argFirst, hg, boolWord]

/-- Settles O50: `State.wf` and the set bit are kept by every step that does not lose the bit, by induction on the run. -/
theorem noFalseNegatives : Obligations.NoFalseNegatives := by
  intro s d n f h hw hd hf hn hm
  have hadd : exec (.add d n) s = _ := execAdd_ok hd hf hn
  refine ⟨_, hadd, fun k t hrun hkeep => ?_⟩
  obtain ⟨hwt, hbt⟩ := runSteps_keeps (P := fun a => a.wf = true ∧ HoldsBit d f.size (h.toNat % (32 * f.size)) a)
    (fun a b ⟨haw, hab⟩ hl hab' => ⟨stepKeepsStateInvariant a b haw hab', step_holdsBit hab' hl haw hab⟩)
    ⟨exec_wf hadd hw, execAdd_holdsBit hw hf hm⟩ hrun hkeep
  exact execContains_of_holdsBit hwt hbt

end Sys2Proof.Machine
end

section
/-! PROOFS. The set operations as operations on bit vectors (R141 to R143): the subset test is a partial order on the filters of
one size, union and intersection are its lattice operations (R144), and their numbers of set bits (R182) and XOR folds (R180). -/

namespace Sys2Proof.Machine

namespace BloomFilter

variable {f fa fb fc : BloomFilter}

theorem size_union_of_eq (hs : fa.size = fb.size) : (fa.union fb).size = fa.size := by simp [hs]

theorem size_inter_of_eq (hs : fa.size = fb.size) : (fa.inter fb).size = fa.size := by simp [hs]

/-- The entry of a union where both operands have one (R141). -/
theorem getElem?_words_union {i : Nat} {x y : Word} (hx : fa.words[i]? = some x) (hy : fb.words[i]? = some y) :
    (fa.union fb).words[i]? = some (x ||| y) := by
  simp [union, List.getElem?_zipWith, hx, hy]

/-- The entry of an intersection where both operands have one (R142). -/
theorem getElem?_words_inter {i : Nat} {x y : Word} (hx : fa.words[i]? = some x) (hy : fb.words[i]? = some y) :
    (fa.inter fb).words[i]? = some (x &&& y) := by
  simp [inter, List.getElem?_zipWith, hx, hy]

/-- A set bit is a bit of one of the filter's words (R55). -/
theorem lt_of_bit {b : Nat} (h : f.bit b = true) : b < 32 * f.size := by
  by_contra hb
  have hle : f.words.length ≤ b / 32 := by simp only [size] at hb; omega
  simp [bit, word, hle] at h

/-! ## The subset test (R143, R144 items 3 and 4) -/

/-- The subset test, bit by bit. -/
theorem subset_iff_bit (hs : fa.size = fb.size) : fa.subset fb = true ↔ ∀ b, fa.bit b = true → fb.bit b = true := by
  rw [subset_iff_word hs]
  constructor
  · intro h b hb
    have hlt := lt_of_bit hb
    exact and_eq_self_iff.mp (h (b / 32) (by omega)) (b % 32) hb
  · intro h i hi
    refine and_eq_self_iff.mpr fun k hk => ?_
    have hk32 := BitVec.lt_of_getLsbD hk
    have hb := h (32 * i + k)
    simp only [bit] at hb
    rw [show (32 * i + k) / 32 = i by omega, show (32 * i + k) % 32 = k by omega] at hb
    exact hb hk

/-- The subset test fails at a bit of the filter. -/
theorem exists_bit_of_subset_eq_false (hs : fa.size = fb.size) (h : fa.subset fb = false) :
    ∃ b, b < 32 * fa.size ∧ fa.bit b = true ∧ fb.bit b = false := by
  have hnot : ¬ ∀ b, fa.bit b = true → fb.bit b = true := by simp [← subset_iff_bit hs, h]
  push Not at hnot
  obtain ⟨b, ha, hb⟩ := hnot
  exact ⟨b, lt_of_bit ha, ha, Bool.eq_false_of_not_eq_true hb⟩

theorem subset_refl (f : BloomFilter) : f.subset f = true := (subset_iff_bit rfl).mpr fun _ hb => hb

theorem subset_antisymm (hs : fa.size = fb.size) (hab : fa.subset fb = true) (hba : fb.subset fa = true) : fa = fb :=
  ext_bit hs fun b _ => Bool.eq_iff_iff.mpr ⟨(subset_iff_bit hs).mp hab b, (subset_iff_bit hs.symm).mp hba b⟩

theorem subset_trans (hs : fa.size = fb.size) (hs' : fb.size = fc.size) (hab : fa.subset fb = true)
    (hbc : fb.subset fc = true) : fa.subset fc = true :=
  (subset_iff_bit (hs.trans hs')).mpr fun b hb => (subset_iff_bit hs').mp hbc b ((subset_iff_bit hs).mp hab b hb)

theorem inter_subset_left (hs : fa.size = fb.size) : (fa.inter fb).subset fa = true := by
  refine (subset_iff_bit (size_inter_of_eq hs)).mpr fun b hb => ?_
  rw [bit_inter hs, Bool.and_eq_true] at hb
  exact hb.1

theorem subset_union_left (hs : fa.size = fb.size) : fa.subset (fa.union fb) = true := by
  refine (subset_iff_bit (size_union_of_eq hs).symm).mpr fun b hb => ?_
  rw [bit_union hs, hb, Bool.true_or]

/-! ## Union and intersection (R144 item 5) -/

theorem union_comm (hs : fa.size = fb.size) : fa.union fb = fb.union fa := by
  refine ext_bit (by simp [hs]) fun b _ => ?_
  rw [bit_union hs, bit_union hs.symm, Bool.or_comm]

theorem inter_comm (hs : fa.size = fb.size) : fa.inter fb = fb.inter fa := by
  refine ext_bit (by simp [hs]) fun b _ => ?_
  rw [bit_inter hs, bit_inter hs.symm, Bool.and_comm]

theorem union_assoc (hs : fa.size = fb.size) (hs' : fb.size = fc.size) :
    (fa.union fb).union fc = fa.union (fb.union fc) := by
  refine ext_bit (by simp [hs, hs']) fun b _ => ?_
  rw [bit_union (by simp [hs, hs']), bit_union hs, bit_union (by simp [hs, hs']), bit_union hs', Bool.or_assoc]

theorem inter_assoc (hs : fa.size = fb.size) (hs' : fb.size = fc.size) :
    (fa.inter fb).inter fc = fa.inter (fb.inter fc) := by
  refine ext_bit (by simp [hs, hs']) fun b _ => ?_
  rw [bit_inter (by simp [hs, hs']), bit_inter hs, bit_inter (by simp [hs, hs']), bit_inter hs', Bool.and_assoc]

theorem union_self (f : BloomFilter) : f.union f = f := by
  refine ext_bit (size_union_of_eq rfl) fun b _ => ?_
  rw [bit_union rfl, Bool.or_self]

theorem inter_self (f : BloomFilter) : f.inter f = f := by
  refine ext_bit (size_inter_of_eq rfl) fun b _ => ?_
  rw [bit_inter rfl, Bool.and_self]

theorem inter_subset_right (hs : fa.size = fb.size) : (fa.inter fb).subset fb = true := by
  rw [inter_comm hs]
  exact inter_subset_left hs.symm

theorem subset_union_right (hs : fa.size = fb.size) : fb.subset (fa.union fb) = true := by
  rw [union_comm hs]
  exact subset_union_left hs.symm

/-- The subset order is that of the intersection (R144 item 4). -/
theorem subset_iff_inter_eq_left (hs : fa.size = fb.size) : fa.subset fb = true ↔ fa.inter fb = fa := by
  constructor
  · intro h
    refine ext_bit (size_inter_of_eq hs) fun b _ => ?_
    exact (bit_inter hs b).trans (Bool.and_eq_left_iff_imp.mpr ((subset_iff_bit hs).mp h b))
  · intro h
    rw [← h]
    exact inter_subset_right hs

/-- The subset order is that of the union (R144 item 4). -/
theorem subset_iff_union_eq_right (hs : fa.size = fb.size) : fa.subset fb = true ↔ fa.union fb = fb := by
  constructor
  · intro h
    refine ext_bit ((size_union_of_eq hs).trans hs) fun b _ => ?_
    exact (bit_union hs b).trans (Bool.or_eq_right_iff_imp.mpr ((subset_iff_bit hs).mp h b))
  · intro h
    rw [← h]
    exact subset_union_left hs

/-- A filter with more bits set contains what the smaller one contains (R112, R144 item 1). -/
theorem getBits_mono {hs : List Word} (hp : isPow2 fa.size = true) (hsize : fa.size = fb.size)
    (hsub : fa.subset fb = true) (h : fa.getBits hs = true) : fb.getBits hs = true := by
  rw [getBits_eq_all hp, List.all_eq_true] at h
  rw [getBits_eq_all (hsize ▸ hp), ← hsize, List.all_eq_true]
  exact fun x hx => (subset_iff_bit hsize).mp hsub _ (h x hx)

end BloomFilter

/-- Settles O54: the subset test compares the bits, which tell filters of one size apart. -/
theorem subsetIsAPartialOrder : Obligations.SubsetIsAPartialOrder := fun fa _ _ hs hs' =>
  ⟨fa.subset_refl, BloomFilter.subset_antisymm hs, BloomFilter.subset_trans hs hs',
    BloomFilter.subset_iff_inter_eq_left hs, BloomFilter.subset_iff_union_eq_right hs⟩

/-- Settles O55: each law is one of the Boolean operations, bit by bit. -/
theorem unionAndIntersectionAreLatticeOperations : Obligations.UnionAndIntersectionAreLatticeOperations :=
  fun fa _ _ hs hs' => ⟨BloomFilter.union_comm hs, BloomFilter.inter_comm hs, BloomFilter.union_assoc hs hs',
    BloomFilter.inter_assoc hs hs', fa.union_self, fa.inter_self⟩

/-! ## The number of set bits (R144 item 6, R185) -/

/-- Elements with either of two properties and those with both are those with the one and those with the other. -/
theorem countP_or_add_countP_and {α : Type} (p q : α → Bool) (l : List α) :
    l.countP (fun a => p a || q a) + l.countP (fun a => p a && q a) = l.countP p + l.countP q := by
  induction l with
  | nil => rfl
  | cons a l ih =>
    simp only [List.countP_cons]
    cases p a <;> cases q a <;> simp <;> omega

theorem popcount32_eq_zero_iff {w : Word} : popcount32 w = 0 ↔ w = 0#32 := by
  rw [popcount32, List.countP_eq_zero]
  constructor
  · intro h
    refine BitVec.eq_of_getLsbD_eq fun i hi => ?_
    simpa using h i (List.mem_range.mpr hi)
  · rintro rfl
    simp

/-- Only a filter of zero words has density 0 (R185 item 2). -/
theorem density_eq_zero_iff {ws : List Word} : density ws = 0 ↔ ∀ w ∈ ws, w = 0#32 := by
  simp [density, List.sum_eq_zero_iff, popcount32_eq_zero_iff]

namespace BloomFilter

variable {fa fb : BloomFilter}

/-- Density is modular over union and intersection. -/
theorem density_union_add_density_inter (hs : fa.size = fb.size) :
    density (fa.union fb).words + density (fa.inter fb).words = density fa.words + density fb.words := by
  simp only [density_eq_countP_bit, size_union_of_eq hs, size_inter_of_eq hs, ← hs, funext (bit_union hs),
    funext (bit_inter hs)]
  exact countP_or_add_countP_and fa.bit fb.bit _

/-- Density is monotone. -/
theorem density_le_of_subset (hs : fa.size = fb.size) (h : fa.subset fb = true) : density fa.words ≤ density fb.words := by
  rw [density_eq_countP_bit, density_eq_countP_bit, ← hs]
  exact List.countP_mono_left fun b _ => (subset_iff_bit hs).mp h b

end BloomFilter

/-! ## The XOR fold (R180) -/

theorem xorFold_cons (w : Word) (ws : List Word) : xorFold (w :: ws) = w ^^^ xorFold ws := by
  calc xorFold (w :: ws) = ws.foldl (· ^^^ ·) (w ^^^ 0#32) := by simp [xorFold]
    _ = w ^^^ xorFold ws := List.foldl_assoc

theorem or_eq_xor_xor_and (x y : Word) : x ||| y = x ^^^ y ^^^ (x &&& y) := by
  refine BitVec.eq_of_getLsbD_eq fun i _ => ?_
  simp only [BitVec.getLsbD_or, BitVec.getLsbD_xor, BitVec.getLsbD_and]
  cases x.getLsbD i <;> cases y.getLsbD i <;> rfl

/-- The XOR fold of a word-wise OR: bits that both words have cancel, and the word-wise AND counts them again. -/
theorem xorFold_zipWith_or {xs ys : List Word} (h : xs.length = ys.length) :
    xorFold (List.zipWith (· ||| ·) xs ys) = xorFold xs ^^^ xorFold ys ^^^ xorFold (List.zipWith (· &&& ·) xs ys) := by
  induction xs generalizing ys with
  | nil =>
    obtain rfl := List.length_eq_zero_iff.mp h.symm
    rfl
  | cons x xs ih =>
    obtain ⟨y, ys, rfl⟩ := List.exists_cons_of_length_eq_add_one h.symm
    simp only [List.zipWith_cons_cons, xorFold_cons, ih (Nat.succ.inj h), or_eq_xor_xor_and x y]
    ac_rfl

theorem xorFold_eq_zero {ws : List Word} (h : ∀ w ∈ ws, w = 0#32) : xorFold ws = 0#32 := by
  induction ws with
  | nil => rfl
  | cons w ws ih =>
    obtain ⟨rfl, hws⟩ := List.forall_mem_cons.mp h
    rw [xorFold_cons, ih hws, BitVec.xor_zero]

/-- Settles O56: the densities are numbers of bits, and the XOR folds go word by word. -/
theorem summariesOfUnionAndIntersection : Obligations.SummariesOfUnionAndIntersection := fun _ _ hs =>
  ⟨BloomFilter.density_union_add_density_inter hs, xorFold_zipWith_or hs, BloomFilter.density_le_of_subset hs,
    density_eq_zero_iff, fun h => xorFold_eq_zero (density_eq_zero_iff.mp h)⟩

end Sys2Proof.Machine
end

section
/-! PROOFS. What UNION, INTERSECT and SUBSET do (R141 to R143), and what CONTAINS and SUBSET answer after them (R144 items 1
and 2). -/

namespace Sys2Proof.Machine

variable {s t : State}

/-! ## The commands -/

/-- Settles O43: the state UNION leaves is the old one with the union of the old filters put in slot `d`. -/
theorem unionIsTheWordwiseOr : Obligations.UnionIsTheWordwiseOr := by
  intro s d a b fa fb hw hd ha hb hfa hfb hs
  obtain ⟨hsame, hother⟩ := slotAt_after_putSlot (slots_wf_of_wf hw) hd (some (fa.union fb))
  exact ⟨_, _, execUnion_ok hd ha hb hfa hfb hs, hsame, BloomFilter.size_union_of_eq hs,
    fun _ _ _ => BloomFilter.getElem?_words_union, hother, rfl⟩

/-- Settles O44: the state INTERSECT leaves is the old one with the intersection of the old filters put in slot `d`. -/
theorem intersectIsTheWordwiseAnd : Obligations.IntersectIsTheWordwiseAnd := by
  intro s d a b fa fb hw hd ha hb hfa hfb hs
  obtain ⟨hsame, hother⟩ := slotAt_after_putSlot (slots_wf_of_wf hw) hd (some (fa.inter fb))
  exact ⟨_, _, execIntersect_ok hd ha hb hfa hfb hs, hsame, BloomFilter.size_inter_of_eq hs,
    fun _ _ _ => BloomFilter.getElem?_words_inter, hother, rfl⟩

/-- Settles O45: the subset test, bit by bit in either outcome. -/
theorem subsetComparesEveryBit : Obligations.SubsetComparesEveryBit := by
  intro s a b fa fb ha hb hfa hfb hs
  refine ⟨_, execSubset_ok ha hb hfa hfb hs, ?_, rfl⟩
  cases hsub : fa.subset fb with
  | true => exact .inl ⟨rfl, fun g _ => (BloomFilter.subset_iff_bit hs).mp hsub g⟩
  | false => exact .inr ⟨rfl, BloomFilter.exists_bit_of_subset_eq_false hs hsub⟩

/-! ## One command after another -/

theorem boolWord_eq_one_iff {b : Bool} : boolWord b = 1#32 ↔ b = true := by
  cases b <;> decide

/-- CONTAINS gives RESULT 1 exactly when the filter has the bits of all its operands (R112). -/
theorem execContains_result_iff {a n : Nat} {f : BloomFilter} (ha : a < s.cfg.nslot) (hf : s.slotAt a = some f)
    (hn : n ≤ s.argq.length) (h : exec (.contains a n) s = .next t) :
    t.result = 1#32 ↔ f.getBits (s.argFirst n) = true := by
  obtain rfl := Host.Outcome.next.inj (h.symm.trans (execContains_ok ha hf hn))
  exact boolWord_eq_one_iff

/-- SUBSET of a filter that is a subset gives RESULT 1 (R143). -/
theorem execSubset_result_of_subset {a b : Nat} {fa fb : BloomFilter} (hfa : s.slotAt a = some fa) (hfb : s.slotAt b = some fb)
    (ha : a < s.cfg.nslot) (hb : b < s.cfg.nslot) (hs : fa.size = fb.size) (hsub : fa.subset fb = true) :
    ∃ t, exec (.subset a b) s = .next t ∧ t.result = 1#32 :=
  ⟨_, execSubset_ok ha hb hfa hfb hs, boolWord_eq_one_iff.mpr hsub⟩

/-- Settles O52: the operand that contains the values is a subset of the union, and UNION takes nothing from ARGQ. -/
theorem unionContainsWhatEitherContains : Obligations.UnionContainsWhatEitherContains := by
  rintro s d a b n fa fb hw hd ha hb hfa hfb hs hn ⟨r, hr, hres⟩
  obtain ⟨hpa, -⟩ := State.size_fits_of_wf hw hfa
  obtain ⟨hpb, -⟩ := State.size_fits_of_wf hw hfb
  have hsize := BloomFilter.size_union_of_eq hs
  have hbits : (fa.union fb).getBits (s.argFirst n) = true := by
    obtain hra | hrb := hr
    · exact BloomFilter.getBits_mono hpa hsize.symm (BloomFilter.subset_union_left hs)
        ((execContains_result_iff ha hfa hn hra).mp hres)
    · exact BloomFilter.getBits_mono hpb (hs.symm.trans hsize.symm) (BloomFilter.subset_union_right hs)
        ((execContains_result_iff hb hfb hn hrb).mp hres)
  obtain ⟨hsame, -⟩ := slotAt_after_putSlot (slots_wf_of_wf hw) hd (some (fa.union fb))
  exact ⟨_, _, execUnion_ok hd ha hb hfa hfb hs, execContains_ok (n := n) hd hsame hn, boolWord_eq_one_iff.mpr hbits⟩

/-- Settles O53: the third slot holds the intersection, which is a subset of the two filters still in their slots. -/
theorem intersectionIsSubsetOfBoth : Obligations.IntersectionIsSubsetOfBoth := by
  intro s d a b fa fb hw hd ha hb hda hdb hfa hfb hs
  obtain ⟨hsame, hother⟩ := slotAt_after_putSlot (slots_wf_of_wf hw) hd (some (fa.inter fb))
  have hsize := BloomFilter.size_inter_of_eq hs
  obtain ⟨u, hu, hru⟩ := execSubset_result_of_subset hsame ((hother a hda.symm).trans hfa) hd ha hsize
    (BloomFilter.inter_subset_left hs)
  obtain ⟨v, hv, hrv⟩ := execSubset_result_of_subset hsame ((hother b hdb.symm).trans hfb) hd hb (hsize.trans hs)
    (BloomFilter.inter_subset_right hs)
  exact ⟨_, u, v, execIntersect_ok hd ha hb hfa hfb hs, hu, hru, hv, hrv⟩

end Sys2Proof.Machine
end

section
/-! PROOFS. The bits of a fold (R160): exactness for the filters ADD builds (R162) and the algebra of the fold (R163). -/

namespace Sys2Proof.Machine

/-- Of two powers of two the smaller divides the larger. -/
theorem isPow2_dvd {m n : Nat} (hm : isPow2 m = true) (hn : isPow2 n = true) (h : m ≤ n) : m ∣ n := by
  obtain ⟨j, rfl⟩ := isPow2_iff.mp hm
  obtain ⟨k, rfl⟩ := isPow2_iff.mp hn
  exact Nat.pow_dvd_pow 2 ((Nat.pow_le_pow_iff_right (by decide)).mp h)

/-- The bit number selected at a small size is the one selected at a larger size, reduced (R104, R162). -/
theorem bitNumber_mod {m n : Nat} (hm : isPow2 m = true) (hn : isPow2 n = true) (h : m ≤ n) (x : Nat) :
    x % (32 * n) % (32 * m) = x % (32 * m) :=
  Nat.mod_mod_of_dvd x (Nat.mul_dvd_mul_left 32 (isPow2_dvd hm hn h))

/-- The word index at a small size is the one at a larger size under the mask of the small one (R162). -/
theorem wordIndex_eq_and_mask {m n : Nat} (hm : isPow2 m = true) (hn : isPow2 n = true) (hle : m ≤ n) (h : Word) :
    wordIndex h m = wordIndex h n &&& (m - 1) := by
  rw [and_mask_eq_mod hm, wordIndex_eq_mod hm, wordIndex_eq_mod hn, Nat.mod_mod_of_dvd _ (isPow2_dvd hm hn hle)]

namespace BloomFilter

variable {f fa fb : BloomFilter} {m n : Nat}

/-- Two filters of one size with the same set bits are equal. -/
theorem ext_bit_iff (hs : fa.size = fb.size) (h : ∀ b, fa.bit b = true ↔ fb.bit b = true) : fa = fb :=
  ext_bit hs fun b _ => Bool.eq_iff_iff.mpr (h b)

/-- Bit `k` of word `i` in the filter's bit vector (R55). -/
theorem bit_mul_add (f : BloomFilter) (i : Nat) {k : Nat} (hk : k < 32) : f.bit (32 * i + k) = (f.word i).getLsbD k := by
  rw [bit, show (32 * i + k) / 32 = i by omega, show (32 * i + k) % 32 = k by omega]

/-- The words of a filter with their indices, as `Fold` goes through them. -/
theorem mem_zipIdx_words {w : Word} {i : Nat} : (w, i) ∈ f.words.zipIdx ↔ i < f.size ∧ w = f.word i := by
  rw [List.mem_zipIdx_iff_getElem?]
  constructor
  · intro h
    obtain ⟨hlt, -⟩ := List.getElem?_eq_some_iff.mp h
    exact ⟨hlt, Option.some.inj (h.symm.trans (getElem?_words hlt))⟩
  · rintro ⟨hlt, h⟩
    rw [h, getElem?_words hlt]

/-- Word `j` of a fold has the bits of the words whose index is `j` modulo `m` (R160). -/
theorem getLsbD_word_fold (hm : isPow2 m = true) (f : BloomFilter) {j : Nat} (hj : j < m) (b : Nat) :
    ((f.fold m).word j).getLsbD b = true ↔ ∃ i, i < f.size ∧ i % m = j ∧ (f.word i).getLsbD b = true := by
  have hzero : ((List.replicate m 0#32).getD j 0#32).getLsbD b = false := by simp [hj]
  rw [word, fold, foldWords, foldStep_bit hm _ _ List.length_replicate j b hj, hzero]
  simp only [Bool.false_eq_true, false_or, Prod.exists, mem_zipIdx_words]
  constructor
  · rintro ⟨_, i, ⟨hi, rfl⟩, hij, hb⟩
    exact ⟨i, hi, hij, hb⟩
  · rintro ⟨i, hi, hij, hb⟩
    exact ⟨f.word i, i, ⟨hi, rfl⟩, hij, hb⟩

/-- A fold has the bits of the filter, their numbers taken modulo the number of its bits (R160). -/
theorem bit_fold_iff (hm : isPow2 m = true) (f : BloomFilter) (b : Nat) :
    (f.fold m).bit b = true ↔ ∃ g, g % (32 * m) = b ∧ f.bit g = true := by
  have hpos := isPow2_pos hm
  constructor
  · intro h
    have hb := lt_of_bit h
    rw [size_fold] at hb
    obtain ⟨i, -, hij, hi⟩ := (getLsbD_word_fold hm f (by omega) _).mp h
    refine ⟨32 * i + b % 32, ?_, by rwa [bit_mul_add f i (Nat.mod_lt b (by decide))]⟩
    rw [mod_split, show (32 * i + b % 32) / 32 = i by omega, hij]
    omega
  · rintro ⟨g, rfl, hg⟩
    have hlt := lt_of_bit hg
    rw [mod_split, bit_mul_add _ _ (Nat.mod_lt g (by decide)), getLsbD_word_fold hm f (Nat.mod_lt _ hpos)]
    exact ⟨g / 32, by omega, rfl, hg⟩

/-- The bits ADD leaves set, as a proposition (R111). -/
theorem bit_setBits_iff (hp : isPow2 f.size = true) (hn : f.size ≤ 2 ^ 31) (hs : List Word) (b : Nat) :
    (f.setBits hs).bit b = true ↔ f.bit b = true ∨ ∃ h ∈ hs, h.toNat % (32 * f.size) = b := by
  simp [bit_setBits hp hn]

/-! ## Exactness (R162) -/

theorem fold_zero (hm : isPow2 m = true) (n : Nat) : (zero n).fold m = zero m :=
  ext_bit_iff (by simp) fun b => by simp [bit_fold_iff hm, bit_zero]

/-- Folding and adding hash values commute: the fold is exact for what ADD sets. -/
theorem fold_setBits (hp : isPow2 f.size = true) (hn : f.size ≤ 2 ^ 31) (hm : isPow2 m = true) (hle : m ≤ f.size)
    (hs : List Word) : (f.setBits hs).fold m = (f.fold m).setBits hs := by
  have hsmall := bit_setBits_iff (f := f.fold m) (by rwa [size_fold]) (by rw [size_fold]; exact hle.trans hn) hs
  refine ext_bit_iff (by simp) fun b => ?_
  rw [hsmall, bit_fold_iff hm, bit_fold_iff hm, size_fold]
  simp only [bit_setBits_iff hp hn]
  constructor
  · rintro ⟨_, hgb, hg | ⟨h, hmem, rfl⟩⟩
    · exact .inl ⟨_, hgb, hg⟩
    · exact .inr ⟨h, hmem, (bitNumber_mod hm hp hle _).symm.trans hgb⟩
  · rintro (⟨g, hgb, hg⟩ | ⟨h, hmem, hhb⟩)
    · exact ⟨g, hgb, .inl hg⟩
    · exact ⟨_, (bitNumber_mod hm hp hle _).trans hhb, .inr ⟨h, hmem, rfl⟩⟩

/-- ADDs one after another are one ADD of all their operands (R114). -/
theorem foldl_setBits (gs : List (List Word)) (f : BloomFilter) : gs.foldl setBits f = f.setBits gs.flatten :=
  List.foldl_flatten.symm

theorem setBits_perm {hs ks : List Word} (hp : isPow2 f.size = true) (hn : f.size ≤ 32768) (h : hs.Perm ks) :
    f.setBits hs = f.setBits ks := by
  obtain ⟨hperm, -⟩ := addIsOrderFreeIdempotentAndMonotone f hs ks hp hn
  exact hperm h

/-- The fold of a filter built by ADDs is the filter built at the small size, in any order and grouping. -/
theorem fold_foldl_setBits {gs ks : List (List Word)} (hn : isPow2 n = true) (hsize : n ≤ 32768) (hm : isPow2 m = true)
    (hle : m ≤ n) (h : gs.flatten.Perm ks.flatten) :
    (gs.foldl setBits (zero n)).fold m = ks.foldl setBits (zero m) := by
  rw [foldl_setBits, foldl_setBits,
    fold_setBits (by rwa [size_zero]) (by rw [size_zero]; omega) hm (by rwa [size_zero]), fold_zero hm]
  exact setBits_perm (by rwa [size_zero]) (by rw [size_zero]; exact hle.trans hsize) h

/-- The fold of a filter has the bit of every hash value whose bit the filter has, whatever set it. -/
theorem getBit_fold {h : Word} (hp : isPow2 f.size = true) (hm : isPow2 m = true) (hle : m ≤ f.size)
    (hg : f.getBit h = true) : (f.fold m).getBit h = true := by
  rw [getBit_eq_bit_mod hp] at hg
  rw [getBit_eq_bit_mod (by rwa [size_fold]), size_fold, bit_fold_iff hm]
  exact ⟨_, bitNumber_mod hm hp hle _, hg⟩

/-! ## The algebra of the fold (R163) -/

theorem fold_size (hp : isPow2 f.size = true) : f.fold f.size = f := by
  refine ext_bit_iff (size_fold f _) fun b => (bit_fold_iff hp f b).trans ?_
  constructor
  · rintro ⟨g, rfl, hg⟩
    rwa [Nat.mod_eq_of_lt (lt_of_bit hg)]
  · exact fun hb => ⟨b, Nat.mod_eq_of_lt (lt_of_bit hb), hb⟩

theorem fold_fold {k : Nat} (hm : isPow2 m = true) (hk : isPow2 k = true) (hle : k ≤ m) (f : BloomFilter) :
    (f.fold m).fold k = f.fold k := by
  refine ext_bit_iff (by simp) fun b => ?_
  simp only [bit_fold_iff hk, bit_fold_iff hm]
  constructor
  · rintro ⟨_, hb, g, rfl, hg⟩
    exact ⟨g, (bitNumber_mod hk hm hle g).symm.trans hb, hg⟩
  · rintro ⟨g, hb, hg⟩
    exact ⟨_, (bitNumber_mod hk hm hle g).trans hb, g, rfl, hg⟩

theorem fold_union (hm : isPow2 m = true) (hs : fa.size = fb.size) :
    (fa.union fb).fold m = (fa.fold m).union (fb.fold m) := by
  refine ext_bit_iff (by simp) fun b => ?_
  rw [bit_union (by simp), Bool.or_eq_true]
  simp only [bit_fold_iff hm, bit_union hs, Bool.or_eq_true, and_or_left, exists_or]

theorem fold_subset_fold (hm : isPow2 m = true) (hs : fa.size = fb.size) (h : fa.subset fb = true) :
    (fa.fold m).subset (fb.fold m) = true := by
  refine (subset_iff_bit (by simp)).mpr fun b hb => ?_
  obtain ⟨g, hgb, hg⟩ := (bit_fold_iff hm fa b).mp hb
  exact (bit_fold_iff hm fb b).mpr ⟨g, hgb, (subset_iff_bit hs).mp h g hg⟩

/-- A filter that is a subset of two filters is a subset of their intersection: it is their greatest lower bound (R144). -/
theorem subset_inter (hs : f.size = fa.size) (hs' : fa.size = fb.size) (ha : f.subset fa = true) (hb : f.subset fb = true) :
    f.subset (fa.inter fb) = true := by
  refine (subset_iff_bit (hs.trans (size_inter_of_eq hs').symm)).mpr fun b hf => ?_
  rw [bit_inter hs', (subset_iff_bit hs).mp ha b hf, (subset_iff_bit (hs.trans hs')).mp hb b hf, Bool.and_self]

/-- The intersection is in both filters, so its fold is in both folds. -/
theorem fold_inter_subset (hm : isPow2 m = true) (hs : fa.size = fb.size) :
    ((fa.inter fb).fold m).subset ((fa.fold m).inter (fb.fold m)) = true :=
  subset_inter (by simp) (by simp) (fold_subset_fold hm (size_inter_of_eq hs) (inter_subset_left hs))
    (fold_subset_fold hm ((size_inter_of_eq hs).trans hs) (inter_subset_right hs))

/-- Every bit of a fold comes from a set bit of the filter, and different bits from different ones. -/
theorem density_fold_le (hm : isPow2 m = true) (f : BloomFilter) : density (f.fold m).words ≤ density f.words := by
  have hsub : (List.range (32 * m)).filter (f.fold m).bit ⊆
      ((List.range (32 * f.size)).filter f.bit).map (· % (32 * m)) := fun b hb => by
    obtain ⟨-, hbit⟩ := List.mem_filter.mp hb
    obtain ⟨g, hgb, hg⟩ := (bit_fold_iff hm f b).mp hbit
    exact List.mem_map.mpr ⟨g, List.mem_filter.mpr ⟨List.mem_range.mpr (lt_of_bit hg), hg⟩, hgb⟩
  rw [density_eq_countP_bit, density_eq_countP_bit, size_fold, List.countP_eq_length_filter, List.countP_eq_length_filter]
  calc _ ≤ (((List.range (32 * f.size)).filter f.bit).map (· % (32 * m))).length :=
        ((List.nodup_range.filter _).subperm hsub).length_le
    _ = _ := List.length_map _

/-- Word 0 of the fold of 16 words to 8. -/
theorem word_zero_fold_eight (hf : f.size = 16) : (f.fold 8).word 0 = f.word 0 ||| f.word 8 := by
  refine BitVec.eq_of_getLsbD_eq fun b _ => Bool.eq_iff_iff.mpr ?_
  rw [getLsbD_word_fold (by decide) f (by decide), hf, BitVec.getLsbD_or, Bool.or_eq_true]
  constructor
  · rintro ⟨i, hi, hmod, hb⟩
    obtain rfl | rfl : i = 0 ∨ i = 8 := by omega
    · exact .inl hb
    · exact .inr hb
  · rintro (hb | hb)
    · exact ⟨0, by decide, rfl, hb⟩
    · exact ⟨8, by decide, rfl, hb⟩

end BloomFilter

/-- Settles O58: the laws of the fold's bit numbers; the inclusion of item 4 is strict where two words of one fold group have
the same bit, each in one filter only. -/
theorem foldAlgebra : Obligations.FoldAlgebra :=
  ⟨fun fa _ _ _ hp hm hk hs _ hkm => ⟨BloomFilter.fold_size hp, BloomFilter.fold_fold hm hk hkm fa,
      BloomFilter.fold_union hm hs.symm, BloomFilter.fold_inter_subset hm hs.symm,
      BloomFilter.fold_subset_fold hm hs.symm, BloomFilter.density_fold_le hm fa⟩,
    ⟨⟨[1, 0]⟩, ⟨[0, 1]⟩, 1, by decide⟩, fun _ => BloomFilter.word_zero_fold_eight⟩

end Sys2Proof.Machine
end

section
/-! PROOFS. What REDUCE does (R161), alone and after CONSTRUCT and ADD (R162). -/

namespace Sys2Proof.Machine

variable {s t : State}

/-- REDUCE leaves the fold in slot `d`: the size it is given is a legal one, at most that of a filter in storage (R161). -/
theorem execReduce_slotAt {d a m : Nat} {f : BloomFilter} (hw : s.wf = true) (hd : d < s.cfg.nslot) (hf : s.slotAt a = some f)
    (hm : isPow2 m = true) (hle : m ≤ f.size) :
    exec (.reduce d a m) s = .next ((s.putSlot d (some (f.fold m))).setResultSlot d).complete ∧
      ((s.putSlot d (some (f.fold m))).setResultSlot d).complete.slotAt d = some (f.fold m) := by
  obtain ⟨-, hmax, -⟩ := State.size_of_wf hw hf
  obtain ⟨hsame, -⟩ := slotAt_after_putSlot (slots_wf_of_wf hw) hd (some (f.fold m))
  exact ⟨execReduce_ok hd (lt_nslot_of_slotAt hw hf) hf hm (hle.trans hmax) hle, hsame⟩

/-- CONSTRUCT leaves a fresh filter in slot `d` (R106). -/
theorem execConstruct_slotAt {d n : Nat} (hw : s.wf = true) (hd : d < s.cfg.nslot) (hn : isPow2 n = true)
    (hmax : n ≤ s.cfg.maxWords) : ∃ t, exec (.construct d n) s = .next t ∧ t.slotAt d = some (.zero n) := by
  obtain ⟨hsame, -⟩ := slotAt_after_putSlot (slots_wf_of_wf hw) hd (some (.zero n))
  exact ⟨_, execConstruct_ok hd hn hmax, hsame⟩

/-- ADD adds its operands to the filter of slot `d` and leaves every other slot and the parameters (R22, R111). -/
theorem execAdd_slotAt {d n : Nat} {f : BloomFilter} (hw : s.wf = true) (hf : s.slotAt d = some f) (hn : n ≤ s.argq.length) :
    ∃ t, exec (.add d n) s = .next t ∧ t.slotAt d = some (f.setBits (s.argq.take n)) ∧
      (∀ k, k ≠ d → t.slotAt k = s.slotAt k) ∧ t.cfg = s.cfg := by
  have hd := lt_nslot_of_slotAt hw hf
  have hslots := slots_wf_of_wf hw
  obtain ⟨hsame, hother⟩ := slotAt_after_putSlot (s := s.argDrop n) hslots hd (some (f.setBits (s.argFirst n)))
  exact ⟨_, execAdd_ok hd hf hn, hsame, hother, rfl⟩

/-- The host may queue the operands of a command again: the invariant does not say which operands ARGQ holds (R24). -/
theorem wf_with_argq_of_wf {q : List Word} (ht : t.wf = true) (hq : q.length ≤ t.cfg.argqDepth) :
    State.wf { t with argq := q } = true := by
  obtain ⟨hcfg, hslots, -, herr⟩ := State.wf_iff.mp ht
  exact State.wf_iff.mpr ⟨hcfg, hslots, hq, herr⟩

/-- ADDs of the same operands keep a slot the fold of another (R162). -/
theorem execAdd_keeps_fold {d e n : Nat} {fd fe : BloomFilter} (hw : s.wf = true) (hde : d ≠ e) (hfd : s.slotAt d = some fd)
    (hfe : s.slotAt e = some fe) (hle : fe.size ≤ fd.size) (hfold : fd.fold fe.size = fe) (hn : n ≤ s.argq.length) :
    ∃ s₁ s₂ gd ge, exec (.add d n) s = .next s₁ ∧ exec (.add e n) { s₁ with argq := s.argq } = .next s₂ ∧
      s₂.slotAt d = some gd ∧ s₂.slotAt e = some ge ∧ gd.size = fd.size ∧ ge.size = fe.size ∧ gd.fold ge.size = ge ∧
      s₂.wf = true ∧ s₂.cfg = s.cfg := by
  obtain ⟨s₁, hadd₁, hd₁, hother₁, hcfg₁⟩ := execAdd_slotAt hw hfd hn
  obtain ⟨-, -, hcount, -⟩ := State.wf_iff.mp hw
  have hw₁ : State.wf { s₁ with argq := s.argq } = true := wf_with_argq_of_wf (exec_wf hadd₁ hw) (hcfg₁ ▸ hcount)
  obtain ⟨s₂, hadd₂, he₂, hother₂, hcfg₂⟩ := execAdd_slotAt (d := e) hw₁ ((hother₁ e hde.symm).trans hfe) hn
  obtain ⟨hp, hsize⟩ := State.size_fits_of_wf hw hfd
  obtain ⟨hpe, -⟩ := State.size_fits_of_wf hw hfe
  refine ⟨s₁, s₂, _, _, hadd₁, hadd₂, (hother₂ d hde).trans hd₁, he₂, BloomFilter.size_setBits _ _,
    BloomFilter.size_setBits _ _, ?_, exec_wf hadd₂ hw₁, hcfg₂.trans hcfg₁⟩
  rw [BloomFilter.size_setBits, BloomFilter.fold_setBits hp hsize hpe hle, hfold]

/-- Settles O46: the state REDUCE leaves is the old one with the fold of the old filter put in slot `d`. -/
theorem reduceFoldsTheWords : Obligations.ReduceFoldsTheWords := by
  intro s d a m f hw hd _ hf hm hle
  have hp := isPow2_iff.mpr hm
  obtain ⟨hred, hsame⟩ := execReduce_slotAt hw hd hf hp hle
  obtain ⟨-, hother⟩ := slotAt_after_putSlot (slots_wf_of_wf hw) hd (some (f.fold m))
  exact ⟨_, _, hred, hsame, f.size_fold m, fun _ b hj => BloomFilter.getLsbD_word_fold hp f hj b, hother, rfl⟩

/-- Settles O57: folding commutes with the setting of bits, and `setBits` depends only on the multiset of its operands. -/
theorem foldOfAddedFilterIsTheSmallFilter : Obligations.FoldOfAddedFilterIsTheSmallFilter := by
  refine ⟨fun h n m hn hm hle _ => wordIndex_eq_and_mask hm hn hle h, fun n m _ hm _ => BloomFilter.fold_zero hm n,
    fun s d n => execConstruct_slotAt, ?add, ?reduce, ?related,
    fun f m h hp _ hm hle => BloomFilter.getBit_fold hp hm hle⟩
  case add =>
    intro s d n f hw _ hf hn
    obtain ⟨t, ht, hslot, -⟩ := execAdd_slotAt hw hf hn
    exact ⟨t, ht, hslot⟩
  case reduce =>
    intro s x d n m gs ks hw hx _ hf hm hle hperm
    have hsize : (gs.foldl BloomFilter.setBits (BloomFilter.zero n)).size = n := by
      rw [BloomFilter.foldl_setBits, BloomFilter.size_setBits, BloomFilter.size_zero]
    obtain ⟨hp, -, hn⟩ := State.size_of_wf hw hf
    rw [hsize] at hp hn
    obtain ⟨hred, hslot⟩ := execReduce_slotAt hw hx hf hm (by rwa [hsize])
    exact ⟨_, hred, by rw [hslot, BloomFilter.fold_foldl_setBits hp hn hm hle hperm]⟩
  case related =>
    intro s d e n fd fe hw _ _ hde hfd hfe hle hfold hn
    obtain ⟨s₁, s₂, gd, ge, hadd₁, hadd₂, hd₂, he₂, hgd, hge, hfold₂, hw₂, hcfg₂⟩ :=
      execAdd_keeps_fold hw hde hfd hfe hle hfold hn
    refine ⟨s₁, s₂, gd, ge, hadd₁, hadd₂, hd₂, he₂, hgd, hge, hfold₂, fun x hx => ?_⟩
    obtain ⟨hpe, -⟩ := State.size_of_wf hw₂ he₂
    obtain ⟨hred, hslot⟩ := execReduce_slotAt hw₂ (hcfg₂ ▸ hx) hd₂ hpe (by rwa [hgd, hge])
    exact ⟨_, hred, by rw [hslot, hfold₂]⟩

end Sys2Proof.Machine
end

section
/-! PROOFS. The parallel bit count of R184: each of its steps adds the fields of the word in pairs, into fields of twice the
width, and keeps the sum of the fields; the last one reads that sum from the top byte of a product. -/

namespace Sys2Proof.Machine

/-- The sum of the `n` low digits of `x` in base `B`. -/
def fieldSum (B : Nat) : Nat → Nat → Nat
  | 0, _ => 0
  | n + 1, x => x % B + fieldSum B n (x / B)

/-- The mask with every other one of `2 * n` fields of `k` bits set, from the lowest field on. -/
def evenMask (k : Nat) : Nat → Nat
  | 0 => 0
  | n + 1 => (2 ^ k - 1) + 2 ^ (2 * k) * evenMask k n

/-- The even fields of `x` plus the odd ones, side by side in `n` fields of `2 * k` bits. -/
def pairSums (k n x : Nat) : Nat := (x &&& evenMask k n) + (x / 2 ^ k &&& evenMask k n)

theorem pairSums_zero (k x : Nat) : pairSums k 0 x = 0 := by simp [pairSums, evenMask]

/-! ## Fields -/

/-- The number of set bits is the sum of the fields of one bit (R182). -/
theorem countP_testBit_range (n x : Nat) : (List.range n).countP x.testBit = fieldSum 2 n x := by
  induction n generalizing x with
  | zero => rfl
  | succ n ih =>
    have hrest : x.testBit ∘ Nat.succ = (x / 2).testBit := funext fun i => Nat.testBit_succ x i
    rw [List.range_succ_eq_map, List.countP_cons, List.countP_map, hrest, ih, fieldSum, Nat.testBit_zero, Nat.add_comm]
    obtain h | h := Nat.mod_two_eq_zero_or_one x <;> simp [h]

theorem popcount32_eq_fieldSum (w : Word) : popcount32 w = fieldSum 2 32 w.toNat := countP_testBit_range 32 w.toNat

theorem popcount32_le (w : Word) : popcount32 w ≤ 32 := List.countP_le_length.trans_eq List.length_range

/-- The mask keeps the lowest field and drops the one above it. -/
theorem and_evenMask_succ (k n x : Nat) :
    x &&& evenMask k (n + 1) = x % 2 ^ k + 2 ^ (2 * k) * (x / 2 ^ (2 * k) &&& evenMask k n) := by
  have hlt : 2 ^ k - 1 < 2 ^ (2 * k) :=
    (Nat.sub_lt (by positivity) (by decide)).trans_le (Nat.pow_le_pow_right (by decide) (by omega))
  have hmod : evenMask k (n + 1) % 2 ^ (2 * k) = 2 ^ k - 1 := by
    rw [evenMask, Nat.add_mul_mod_self_left, Nat.mod_eq_of_lt hlt]
  have hdiv : evenMask k (n + 1) / 2 ^ (2 * k) = evenMask k n := by
    rw [evenMask, Nat.add_mul_div_left _ _ (by positivity), Nat.div_eq_of_lt hlt, Nat.zero_add]
  have hlow : (x % 2 ^ (2 * k)) &&& (2 ^ k - 1) = x % 2 ^ k := by
    rw [Nat.and_two_pow_sub_one_eq_mod, Nat.mod_mod_of_dvd _ (Nat.pow_dvd_pow 2 (by omega))]
  calc x &&& evenMask k (n + 1)
      = (x &&& evenMask k (n + 1)) % 2 ^ (2 * k) + 2 ^ (2 * k) * ((x &&& evenMask k (n + 1)) / 2 ^ (2 * k)) :=
        (Nat.mod_add_div _ _).symm
    _ = x % 2 ^ k + 2 ^ (2 * k) * (x / 2 ^ (2 * k) &&& evenMask k n) := by
        rw [Nat.and_mod_two_pow, Nat.and_div_two_pow, hmod, hdiv, hlow]

/-- The lowest pair of fields and the pairs above it. -/
theorem pairSums_succ (k n x : Nat) :
    pairSums k (n + 1) x = (x % 2 ^ k + x / 2 ^ k % 2 ^ k) + 2 ^ (2 * k) * pairSums k n (x / 2 ^ (2 * k)) := by
  rw [pairSums, and_evenMask_succ, and_evenMask_succ, pairSums, Nat.div_right_comm]
  ring

/-- Adding the fields in pairs keeps their sum: a pair fits a field of twice the width. -/
theorem fieldSum_pairSums {k : Nat} (hk : 0 < k) (n x : Nat) :
    fieldSum (2 ^ (2 * k)) n (pairSums k n x) = fieldSum (2 ^ k) (2 * n) x := by
  induction n generalizing x with
  | zero => rfl
  | succ n ih =>
    have hsq : 2 ^ (2 * k) = 2 ^ k * 2 ^ k := by rw [two_mul, pow_add]
    have hfit : x % 2 ^ k + x / 2 ^ k % 2 ^ k < 2 ^ (2 * k) := by
      have htwo : 2 ≤ 2 ^ k := Nat.le_self_pow hk.ne' 2
      have hx := Nat.mod_lt x (show 0 < 2 ^ k by positivity)
      have hy := Nat.mod_lt (x / 2 ^ k) (show 0 < 2 ^ k by positivity)
      nlinarith
    calc fieldSum (2 ^ (2 * k)) (n + 1) (pairSums k (n + 1) x)
        = (x % 2 ^ k + x / 2 ^ k % 2 ^ k) + fieldSum (2 ^ (2 * k)) n (pairSums k n (x / 2 ^ (2 * k))) := by
          rw [fieldSum, pairSums_succ, Nat.add_mul_mod_self_left, Nat.mod_eq_of_lt hfit,
            Nat.add_mul_div_left _ _ (by positivity), Nat.div_eq_of_lt hfit, Nat.zero_add]
      _ = fieldSum (2 ^ k) (2 * (n + 1)) x := by
          rw [ih, Nat.mul_succ, fieldSum, fieldSum, Nat.div_div_eq_div_mul, ← hsq, Nat.add_assoc]

/-! ## The steps of R184 -/

/-- A number is its even bits and twice its odd bits. -/
theorem even_add_two_mul_odd {n x : Nat} (hx : x < 4 ^ n) : (x &&& evenMask 1 n) + 2 * (x / 2 &&& evenMask 1 n) = x := by
  induction n generalizing x with
  | zero => simp_all [evenMask]
  | succ n ih =>
    have ih' := ih (x := x / 4) (by omega)
    rw [and_evenMask_succ, and_evenMask_succ]
    norm_num only [Nat.div_div_eq_div_mul] at ih' ⊢
    omega

/-- The first step: taking the odd bits away once leaves the sums of the pairs of bits. -/
theorem toNat_sub_odd (w : Word) : (w - ((w >>> 1) &&& 0x55555555#32)).toNat = pairSums 1 16 w.toNat := by
  have hw : (w.toNat &&& 0x55555555) + 2 * (w.toNat / 2 &&& 0x55555555) = w.toNat := even_add_two_mul_odd (n := 16) w.isLt
  have hodd : ((w >>> 1) &&& 0x55555555#32).toNat = w.toNat / 2 &&& 0x55555555 := by
    simp [Nat.shiftRight_eq_div_pow]
  have hpairs : pairSums 1 16 w.toNat = (w.toNat &&& 0x55555555) + (w.toNat / 2 &&& 0x55555555) := rfl
  rw [BitVec.toNat_sub_of_le (BitVec.le_def.mpr (by omega)), hodd, hpairs]
  omega

theorem pairSums_two_eight_le (x : Nat) : pairSums 2 8 x ≤ 0x66666666 :=
  Nat.add_le_add (Nat.and_le_right (n := x) (m := 0x33333333)) (Nat.and_le_right (n := x / 4) (m := 0x33333333))

/-- The second step. -/
theorem toNat_add_pairs (x : Word) :
    ((x &&& 0x33333333#32) + ((x >>> 2) &&& 0x33333333#32)).toNat = pairSums 2 8 x.toNat := by
  have hle := pairSums_two_eight_le x.toNat
  have hpairs : pairSums 2 8 x.toNat = (x.toNat &&& 0x33333333) + (x.toNat / 4 &&& 0x33333333) := rfl
  simp only [BitVec.toNat_add, BitVec.toNat_and, BitVec.toNat_ushiftRight, Nat.shiftRight_eq_div_pow, BitVec.toNat_ofNat]
  norm_num only
  omega

theorem pairSums_two_mod_le (n x : Nat) : pairSums 2 n x % 16 ≤ 6 := by
  cases n with
  | zero => simp [pairSums_zero]
  | succ n =>
    rw [pairSums_succ]
    omega

theorem pairSums_two_div (n x : Nat) : pairSums 2 (n + 1) x / 16 = pairSums 2 n (x / 16) := by
  rw [pairSums_succ]
  norm_num only
  omega

/-- Fields of at most 6 add up in a field of four bits, and the lowest two carry nothing into those above. -/
theorem add_div_of_fields_le {y : Nat} (h0 : y % 16 ≤ 6) (h1 : y / 16 % 16 ≤ 6) (h2 : y / 16 / 16 % 16 ≤ 6) :
    (y + y / 16) % 16 = y % 16 + y / 16 % 16 ∧ (y + y / 16) / 256 = y / 256 + y / 256 / 16 := by
  rw [show y / 256 = y / 16 / 16 by omega]
  omega

/-- The fields the second step leaves are at most 6, so neighbours may be added before the mask as well as after it. -/
theorem add_div_and_evenMask (n x : Nat) :
    (pairSums 2 (2 * n) x + pairSums 2 (2 * n) x / 16) &&& evenMask 4 n = pairSums 4 n (pairSums 2 (2 * n) x) := by
  induction n generalizing x with
  | zero => simp [pairSums_zero, evenMask]
  | succ n ih =>
    have h1 : pairSums 2 (2 * (n + 1)) x / 16 = pairSums 2 (2 * n + 1) (x / 16) := pairSums_two_div _ _
    have h2 : pairSums 2 (2 * n + 1) (x / 16) / 16 = pairSums 2 (2 * n) (x / 16 / 16) := pairSums_two_div _ _
    have habove : pairSums 2 (2 * (n + 1)) x / 256 = pairSums 2 (2 * n) (x / 16 / 16) := by
      rw [← h2, ← h1, Nat.div_div_eq_div_mul]
    obtain ⟨hmod, hdiv⟩ := add_div_of_fields_le (pairSums_two_mod_le (2 * (n + 1)) x)
      (h1 ▸ pairSums_two_mod_le _ _) (by rw [h1, h2]; exact pairSums_two_mod_le _ _)
    rw [and_evenMask_succ, pairSums_succ]
    norm_num only
    rw [hmod, hdiv, habove, ih]

/-- The third step, on what the second one left. -/
theorem toNat_add_nibbles {x : Nat} {y : Word} (hy : y.toNat = pairSums 2 8 x) :
    ((y + (y >>> 4)) &&& 0x0F0F0F0F#32).toNat = pairSums 4 4 y.toNat := by
  have hle := pairSums_two_eight_le x
  have hsum : (y + (y >>> 4)).toNat = y.toNat + y.toNat / 16 := by
    rw [BitVec.toNat_add, BitVec.toNat_ushiftRight, Nat.shiftRight_eq_div_pow]
    omega
  rw [BitVec.toNat_and, hsum, hy]
  exact add_div_and_evenMask 4 x

/-- In the product of four bytes with 0x01010101, the byte at place 24 is their sum, when that fits a byte. -/
theorem mul_ones_div {b0 b1 b2 b3 : Nat} (h : b0 + b1 + b2 + b3 < 256) :
    (b0 + 256 * (b1 + 256 * (b2 + 256 * b3))) * 0x01010101 % 2 ^ 32 / 2 ^ 24 = b0 + b1 + b2 + b3 := by
  have hprod : (b0 + 256 * (b1 + 256 * (b2 + 256 * b3))) * 0x01010101 =
      2 ^ 32 * (b1 + b2 + b3 + 256 * (b2 + b3) + 65536 * b3) +
        (2 ^ 24 * (b0 + b1 + b2 + b3) + 65536 * (b0 + b1 + b2) + 256 * (b0 + b1) + b0) := by ring
  rw [hprod, Nat.mul_add_mod, Nat.mod_eq_of_lt (by omega)]
  omega

/-- The last step: the top byte of the product is the sum of the bytes. -/
theorem toNat_mul_shiftRight {z : Word} (hz : fieldSum 256 4 z.toNat < 256) :
    ((z * 0x01010101#32) >>> 24).toNat = fieldSum 256 4 z.toNat := by
  have hlt := z.isLt
  obtain ⟨b0, b1, b2, b3, hbytes, hsum⟩ : ∃ b0 b1 b2 b3, z.toNat = b0 + 256 * (b1 + 256 * (b2 + 256 * b3)) ∧
      fieldSum 256 4 z.toNat = b0 + b1 + b2 + b3 :=
    ⟨z.toNat % 256, z.toNat / 256 % 256, z.toNat / 256 / 256 % 256, z.toNat / 256 / 256 / 256 % 256, by omega,
      by simp only [fieldSum]; omega⟩
  rw [hsum] at hz ⊢
  rw [BitVec.toNat_ushiftRight, BitVec.toNat_mul, hbytes, Nat.shiftRight_eq_div_pow]
  exact mul_ones_div hz

/-- Settles O59: every step keeps the sum of the fields, which is the number of set bits at first. -/
theorem parallelBitCountIsTheCount : Obligations.ParallelBitCountIsTheCount := by
  intro w
  set x := w - ((w >>> 1) &&& 0x55555555#32) with hx
  set y := (x &&& 0x33333333#32) + ((x >>> 2) &&& 0x33333333#32) with hy
  set z := (y + (y >>> 4)) &&& 0x0F0F0F0F#32 with hz
  have hsum : fieldSum 256 4 z.toNat = popcount32 w :=
    calc fieldSum 256 4 z.toNat = fieldSum 256 4 (pairSums 4 4 y.toNat) := by rw [hz, toNat_add_nibbles (toNat_add_pairs x)]
      _ = fieldSum 16 8 y.toNat := fieldSum_pairSums (by decide) 4 y.toNat
      _ = fieldSum 16 8 (pairSums 2 8 x.toNat) := by rw [hy, toNat_add_pairs]
      _ = fieldSum 4 16 x.toNat := fieldSum_pairSums (by decide) 8 x.toNat
      _ = fieldSum 4 16 (pairSums 1 16 w.toNat) := by rw [hx, toNat_sub_odd]
      _ = fieldSum 2 32 w.toNat := fieldSum_pairSums (by decide) 16 w.toNat
      _ = popcount32 w := (popcount32_eq_fieldSum w).symm
  have hle := popcount32_le w
  calc popcountParallel w = fieldSum 256 4 z.toNat := toNat_mul_shiftRight (by rw [hsum]; omega)
    _ = popcount32 w := hsum

end Sys2Proof.Machine
end

section
/-! PROOFS. What HASH and DENSITY answer (R181, R183). -/

namespace Sys2Proof.Machine

/-- A bit of the XOR fold is the parity of that bit over the words (R180). -/
theorem getLsbD_xorFold (ws : List Word) (b : Nat) :
    (xorFold ws).getLsbD b = decide (ws.countP (fun w => w.getLsbD b) % 2 = 1) := by
  induction ws with
  | nil => simp [xorFold]
  | cons w ws ih =>
    rw [xorFold_cons, BitVec.getLsbD_xor, ih, List.countP_cons, Bool.eq_iff_iff]
    cases w.getLsbD b with
    | false => simp
    | true => simp; omega

/-- The density of a filter is at most its number of bits (R182). -/
theorem BloomFilter.density_le (f : BloomFilter) : density f.words ≤ 32 * f.size := by
  rw [density_eq_countP_bit]
  exact List.countP_le_length.trans_eq List.length_range

/-- Settles O47: RESULT is the XOR fold, bit by bit. -/
theorem hashIsTheParityOfEachBit : Obligations.HashIsTheParityOfEachBit :=
  fun _ _ f ha hf => ⟨_, execHash_ok ha hf, getLsbD_xorFold f.words, rfl⟩

/-- Settles O48: the density of a filter of a legal size fits RESULT. -/
theorem densityCountsTheSetBits : Obligations.DensityCountsTheSetBits := by
  intro s a f hw ha hf
  obtain ⟨-, -, hn⟩ := State.size_of_wf hw hf
  have hle := f.density_le
  have hres : (s.setResult (BitVec.ofNat 32 (density f.words))).complete.result.toNat = density f.words := by
    simp only [State.complete_result, State.setResult_result, BitVec.toNat_ofNat]
    omega
  exact ⟨_, execDensity_ok ha hf, hres.trans f.density_eq_countP_bit, hres.trans_le hle, rfl⟩

end Sys2Proof.Machine
end

section
/-! PROOFS. The interrupt level (R211), and what a host access can do while a command is in flight (R205, R206, R246). -/

namespace Sys2Proof.Machine

variable {s : State} {a : BusAccess} {off : Byte} {v : Word}

/-! ## The interrupt level (R211) -/

/-- DONE drives irq only while it is pending and enabled. -/
theorem irq_eq_of_done_off (h : s.done = false ∨ s.ieDone = false) : s.irq = (s.err && s.ieErr) := by
  obtain h | h := h <;> simp [State.irq, h]

/-- ERR drives irq only while it is pending and enabled. -/
theorem irq_eq_of_err_off (h : s.err = false ∨ s.ieErr = false) : s.irq = (s.done && s.ieDone) := by
  obtain h | h := h <;> simp [State.irq, h]

theorem statusWrite_clears : (v.getLsbD 1 = true → (s.statusWrite v).done = false) ∧
    (v.getLsbD 2 = true → (s.statusWrite v).err = false) := by
  rw [statusWrite_eq]
  exact ⟨fun h => by simp [h], fun h => by simp [h]⟩

/-- An enable written 0 is 0 after every CTRL write that is not dropped, a soft reset included (R31, R242). -/
theorem ctrlWrite_disables (h : v.getLsbD 8 = false ∨ s.busy = false) :
    (v.getLsbD 0 = false → (s.ctrlWrite v).ieDone = false) ∧ (v.getLsbD 1 = false → (s.ctrlWrite v).ieErr = false) := by
  cases h9 : v.getLsbD 9 with
  | true =>
    rw [ctrlWrite_softReset h9]
    exact ⟨fun _ => rfl, fun _ => rfl⟩
  | false =>
    cases h8 : v.getLsbD 8 with
    | false =>
      rw [ctrlWrite_enables h9 h8]
      exact ⟨id, id⟩
    | true =>
      rw [ctrlWrite_argClear h9 h8 (h.resolve_left (by simp [h8]))]
      exact ⟨id, id⟩

/-- Settles O27: STATUS and CTRL show the four bits, and a write leaves the bit of the source it silences 0. -/
theorem irqIsTheEnabledPendingLevel : Obligations.IrqIsTheEnabledPendingLevel := by
  refine ⟨fun s => ?_, fun _ => rfl, fun s v hn => ⟨_, step_write hn rfl, ?_⟩,
    fun s v hn hq => ⟨_, step_write hn rfl, ?_⟩⟩
  · obtain ⟨-, hdone, herr⟩ := statusWord_flags s
    obtain ⟨hieDone, hieErr, -⟩ := ctrlWord_bits s
    have hstatus : s.busRead 0x0C#8 = s.statusWord := rfl
    have hctrl : s.busRead 0x08#8 = s.ctrlWord := rfl
    rw [hstatus, hctrl, hdone, herr, hieDone, hieErr]
    rfl
  · obtain ⟨hdone, herr⟩ := statusWrite_clears (s := s.advance) (v := v)
    exact ⟨fun h1 => irq_eq_of_done_off (.inl (hdone h1)), fun h2 => irq_eq_of_err_off (.inl (herr h2))⟩
  · obtain ⟨hdone, herr⟩ := ctrlWrite_disables (s := s.advance) (hq.imp_right busy_eq_false_iff.mpr)
    exact ⟨fun h0 => irq_eq_of_done_off (.inr (hdone h0)), fun h1 => irq_eq_of_err_off (.inr (herr h1))⟩

/-! ## The host while BUSY = 1 (R246) -/

/-- The accesses that R246 does not allow are performed writes: to CMD, to ARG, or to CTRL with ARGQ_CLR or SOFT_RESET. -/
theorem BusAccess.allowedWhileBusy_eq_false_iff : a.allowedWhileBusy = false ↔ a.legal = true ∧ a.write = true ∧
    (a.addr = 0x10#8 ∨ a.addr = 0x14#8 ∨ a.addr = 0x08#8 ∧ (a.wdata.getLsbD 8 = true ∨ a.wdata.getLsbD 9 = true)) := by
  simp only [BusAccess.allowedWhileBusy, Bool.or_eq_false_iff, Bool.not_eq_false', Bool.or_eq_true_iff, Bool.and_eq_true_iff,
    beq_iff_eq, and_assoc, or_assoc]

/-- A write to neither CMD nor ARG, and to CTRL of the enables alone, clears flags of STATUS or writes the enables. -/
theorem busWrite_flags_enables (s : State)
    (h : ¬ (off = 0x10#8 ∨ off = 0x14#8 ∨ off = 0x08#8 ∧ (v.getLsbD 8 = true ∨ v.getLsbD 9 = true))) :
    ∃ d e ed ee, s.busWrite off v = { s with done := s.done && d, err := s.err && e, ieDone := ed, ieErr := ee } := by
  simp only [not_or, not_and, Bool.not_eq_true] at h
  obtain ⟨hcmd, harg, hctrl⟩ := h
  by_cases h8 : off = 0x08#8
  · obtain ⟨hclr, hreset⟩ := hctrl h8
    refine ⟨true, true, v.getLsbD 0, v.getLsbD 1, ?_⟩
    rw [h8, busWrite_ctrl, ctrlWrite_enables hreset hclr, Bool.and_true, Bool.and_true]
    rfl
  by_cases hC : off = 0x0C#8
  · exact ⟨!v.getLsbD 1, !v.getLsbD 2, s.ieDone, s.ieErr, by rw [hC, busWrite_status, statusWrite_eq]⟩
  · exact ⟨true, true, s.ieDone, s.ieErr, by rw [busWrite_other h8 hC hcmd harg, Bool.and_true, Bool.and_true]⟩

/-- An access that R246 allows answers, and at most clears flags of STATUS or writes the enables. -/
theorem hostAccess_allowed (s : State) (h : a.allowedWhileBusy = true) : ∃ d e ed ee r, s.hostAccess a =
    { s with done := s.done && d, err := s.err && e, ieDone := ed, ieErr := ee, responses := s.responses ++ [r] } := by
  obtain ⟨-, r, hr⟩ | ⟨hl, hw, hr⟩ := hostAccess_cases s a
  · refine ⟨true, true, s.ieDone, s.ieErr, r, ?_⟩
    rw [hr, Bool.and_true, Bool.and_true]
    rfl
  · obtain ⟨d, e, ed, ee, hb⟩ := busWrite_flags_enables (off := a.addr) (v := a.wdata) s fun ho => by
      simp [BusAccess.allowedWhileBusy_eq_false_iff.mpr ⟨hl, hw, ho⟩] at h
    exact ⟨d, e, ed, ee, .written, by rw [hr, hb]; rfl⟩

/-- A write that raises while BUSY = 1 is dropped and recorded as BUSY_WRITE; for CMD while ERR = 1 that record is no change
(R205, R206). -/
theorem busWrite_dropped (hb : s.busy = true) (h : WriteRaises s off v) :
    s.busWrite off v = s.recordError .busyWrite 0x00#8 (off.setWidth 32) := by
  obtain ⟨rfl, -⟩ | ⟨rfl, -⟩ | ⟨rfl, h9, h8, -⟩ := h
  · rw [busWrite_cmd]
    cases he : s.err with
    | false => exact cmdWrite_dropped he hb
    | true => rw [cmdWrite_discarded he, State.recordError_of_err he]
  · exact argWrite_dropped hb
  · exact ctrlWrite_dropped h9 h8 hb

/-- Settles O28: what the allowed accesses can write, and the dropped ones as one record of BUSY_WRITE. -/
theorem hostAccessWhileBusy : Obligations.HostAccessWhileBusy := by
  intro s a hn hp
  have hb : s.advance.busy = true := busy_iff.mpr hp
  refine ⟨fun hallow => ?_, fun hdeny hreset => ?_⟩
  · obtain ⟨d, e, ed, ee, r, hacc⟩ := hostAccess_allowed s.advance hallow
    refine ⟨_, (step_host hn).trans (congrArg _ hacc), rfl, rfl, rfl, rfl, rfl, rfl, ?_, ?_⟩
    · exact fun hd => (Bool.and_eq_true_iff.mp hd).1
    · exact fun he => (Bool.and_eq_true_iff.mp he).1
  · obtain ⟨hl, hw, ho⟩ := BusAccess.allowedWhileBusy_eq_false_iff.mp hdeny
    have hraises : WriteRaises s.advance a.addr a.wdata := by
      obtain ho | ho | ⟨ho, h89⟩ := ho
      · exact .inl ⟨ho, hb⟩
      · exact .inr (.inl ⟨ho, .inl hb⟩)
      · have h9 : a.wdata.getLsbD 9 ≠ true := fun h9 => hreset ⟨ho, h9⟩
        exact .inr (.inr ⟨ho, Bool.eq_false_of_not_eq_true h9, h89.resolve_right h9, hb⟩)
    rw [step_host hn, State.hostAccess, if_pos hl, if_pos hw, busWrite_dropped hb hraises, recordError_eq]
    rfl

end Sys2Proof.Machine
end

section
/-! PROOFS. Hardware and soft reset (R240 to R242), and what can take a command out of flight (R29, R242). -/

namespace Sys2Proof.Machine

variable {s t : State} {a : BusAccess}

/-- Settles O20: the reset move is the effect of R241, whatever the state. -/
theorem hardwareResetGivesResetState : Obligations.HardwareResetGivesResetState := by
  intro s hn
  rw [step_reset hn, resetEffect_eq]
  rfl

/-- The accesses that are a soft reset (R242). -/
theorem isReset_host_iff : (Turn.host a).isReset = true ↔
    a.legal = true ∧ a.write = true ∧ a.addr = 0x08#8 ∧ a.wdata.getLsbD 9 = true := by
  simp [Turn.isReset, and_assoc]

/-- A soft reset is the effect of R241 and an answered write (R242). -/
theorem hostAccess_softReset (h : (Turn.host a).isReset = true) : s.hostAccess a = s.resetEffect.respond .written := by
  obtain ⟨hl, hw, ho, h9⟩ := isReset_host_iff.mp h
  rw [State.hostAccess, if_pos hl, if_pos hw, ho, busWrite_ctrl, ctrlWrite_softReset h9]

/-- A step that takes a command out of flight completes it (R29) or is a reset (R241, R242); either way PENDING is empty after
it. -/
theorem step_ends_pending (hp : s.pending ≠ none) (h : step s = .next t) (hne : t.pending ≠ s.pending) :
    t.pending = none ∧ ((s.nextTurn = .engine ∧ t.done = true) ∨ s.nextTurn.isReset = true) := by
  obtain ⟨-, hnone, -⟩ | ⟨c, hn, -, he⟩ | ⟨a, hn, rfl⟩ | ⟨hn, rfl⟩ := step_cases h
  · exact absurd hnone hp
  · obtain ⟨hdone, hpend, -, -⟩ := execute_completes he
    exact ⟨hpend, .inl ⟨hn, hdone⟩⟩
  · cases hr : (Turn.host a).isReset with
    | true =>
      rw [hostAccess_softReset hr, hn]
      exact ⟨rfl, .inr hr⟩
    | false =>
      obtain ⟨c, hc⟩ := Option.ne_none_iff_exists'.mp hp
      exact absurd ((hostAccess_keeps_pending (s := s.advance) hc hr).trans hc.symm) hne
  · exact ⟨rfl, .inr (by rw [hn]; rfl)⟩

/-- Settles O21: the soft reset by the CTRL write's own rule, and the only other ends of a command by `step_ends_pending`. -/
theorem softResetGivesResetState : Obligations.SoftResetGivesResetState := by
  refine ⟨fun s v hn h9 => ?_, fun s t hp h hne => ?_⟩
  · rw [step_write hn rfl, busWrite_ctrl, ctrlWrite_softReset h9, resetEffect_eq]
    rfl
  · obtain ⟨hpend, hdone | hreset⟩ := step_ends_pending hp h hne
    · exact ⟨hpend, .inl hdone⟩
    · refine ⟨hpend, .inr ?_⟩
      cases hn : s.nextTurn with
      | engine => simp [hn, Turn.isReset] at hreset
      | host a => exact .inr ⟨a, rfl, isReset_host_iff.mp (hn ▸ hreset)⟩
      | reset => exact .inl rfl

end Sys2Proof.Machine
end
